-- ==== Sys2Proof/Word.lean ====
section
/-! DEFINITION. The words of the goqrcdec CORE: bytes, blocks, subkeys and schedules (00_scope.md R7, R12, R14).

A `bv(n)` of R12 is a `BitVec n`; its POSITION `p` (R11(a), position 0 most significant) is `v.getMsbD p`, `val` is
`BitVec.toNat`, `‖` is `++` and `rotl_n` is `BitVec.rotateLeft`. The `bits[..]` numbering of R11(b) is `v.getLsbD i`. -/

namespace Sys2Proof

/-- One byte: a register of the register file, or a command byte (R10: data width 8). -/
abbrev Byte := BitVec 8

/-- A Block: "exactly 8 bytes (64 bits)" (R7); also one 8-byte key. Byte 0 is the first byte. -/
abbrev Block := Vector Byte 8

/-- CipherKeyMaterial: "exactly 24 bytes" (R7, R23). -/
abbrev KeyMaterial := Vector Byte 24

/-- A RoundKey: "exactly 48 bits" (R7, R32), a `bv(48)`. -/
abbrev RoundKey := BitVec 48

/-- A KeySchedule: "an ordered sequence of exactly 16 RoundKeys, indexed by round number 0..15" (R16). -/
abbrev KeySchedule := Vector RoundKey 16

/-- A TripleKeySchedule: three KeySchedules, one per stage (R16, R32). -/
abbrev TripleKeySchedule := Vector KeySchedule 3

/-- A stage of the triple cipher: A, B, C is 0, 1, 2 (R16). The type leaves no room for the illegal STG value 3. -/
abbrev Stage := Fin 3

/-- The two directions, `ENC` and `DEC` (R14). -/
inductive Dir where
  /-- `ENC`, the source's `encrypt`; as a bit, 0. -/
  | enc
  /-- `DEC`, the source's `decrypt`; as a bit, 1. -/
  | dec
deriving DecidableEq, Repr

end Sys2Proof
end

