-- ==== Sys2Proof/Syntax.lean ====
section
/-! DEFINITION. The commands, the "instructions" of this hardware (00_scope.md R2), one constructor per row of
spec/opcode_table.json (30_encoding.md R72, R73). -/

namespace Sys2Proof

/-- The five commands. A stage operand is the STG field, a direction operand the DIR field (30_encoding.md R71). -/
inductive Instr where
  /-- `KSB s, d`: build the schedule of one stage (41_key_schedule.md R140). -/
  | ksb (s : Stage) (d : Dir)
  /-- `TKSB d`: build the three schedules (41_key_schedule.md R141). -/
  | tksb (d : Dir)
  /-- `BCR s`: run the block cipher with the schedule of one stage (43_block_cipher.md R180). -/
  | bcr (s : Stage)
  /-- `TCR`: run the triple cipher with the schedules in TKS (44_triple_cipher.md R200). -/
  | tcr
  /-- `TCX d`: build the three schedules and run the triple cipher (44_triple_cipher.md R201). -/
  | tcx (d : Dir)
deriving DecidableEq, Repr

end Sys2Proof
end

