-- ==== Sys2Proof/Transaction.lean ====
section
/-! DEFINITION. The host's moves (70_reset_and_hazards.md R262; 20_memory.md R52, R53; 30_encoding.md R76): what the outside
world can do to the engine, one step of the machine each (00_scope.md R17). A list of them is a host script. -/

namespace Sys2Proof

/-- One host transaction. -/
inductive HostOp where
  /-- `RD off`, `MemRead(off, 1)` (R52, R76). -/
  | read (off : Nat)
  /-- `WR off, val`, `MemWrite(off, 1, val)` (R53, R76); at CMD, a whole command. -/
  | write (off : Nat) (val : Byte)
  /-- `WR off, v` where `v` is the byte the host's latest `RD` returned: the write half of `MVOI` (R77). -/
  | writeBack (off : Nat)
  /-- `RST`, reset asserted (R76, R250). -/
  | reset
  /-- A read wider than one byte, of `extra + 2` bytes, which has no meaning (R58). -/
  | wideRead (off extra : Nat)
  /-- A write wider than one byte, of `v0`, `v1` and `more`, which has no meaning (R58). -/
  | wideWrite (off : Nat) (v0 v1 : Byte) (more : List Byte)
deriving DecidableEq, Repr

end Sys2Proof
end

