-- ==== Sys2Proof/WellFormed.lean ====
section
/-! DEFINITION. What is well formed before anything runs: a command byte (30_encoding.md R73) and a host transaction
(70_reset_and_hazards.md R262, 20_memory.md R51, R58). An `Instr` is well formed by its type: STG = 3, the one operand value
that R70 calls illegal, is no `Stage`. The well-formedness of the parameters (R117) is `Params.WF` in Config. -/

namespace Sys2Proof

/-- One row of the opcode map of R73: a byte selects the row when `(byte & mask) = pattern` and, where the row takes a
stage, `byte[1:0] != 3`. -/
structure OpcodeRow where
  mask       : Byte
  pattern    : Byte
  takesStage : Bool
deriving DecidableEq, Repr

/-- The byte selects the row (R73). -/
def OpcodeRow.selects (row : OpcodeRow) (c : Byte) : Bool :=
  (c &&& row.mask == row.pattern) && !(row.takesStage && (c &&& 0x03#8 == 0x03#8))

/-- The row of each command in the map of R73. -/
def Instr.row : Instr → OpcodeRow
  | .ksb _ _ => ⟨0xF8#8, 0x10#8, true⟩
  | .tksb _ => ⟨0xFB#8, 0x20#8, false⟩
  | .bcr _ => ⟨0xFC#8, 0x30#8, true⟩
  | .tcr => ⟨0xFF#8, 0x40#8, false⟩
  | .tcx _ => ⟨0xFB#8, 0x50#8, false⟩

/-- The five rows of R73, in the table's order. -/
def opcodeRows : List OpcodeRow :=
  [Instr.row (.ksb 0 .enc), Instr.row (.tksb .enc), Instr.row (.bcr 0), Instr.row .tcr, Instr.row (.tcx .enc)]

/-- The byte is one of the 14 legal command bytes: some row selects it (R73). -/
def legalCommandByte (c : Byte) : Bool := opcodeRows.any fun row => row.selects c

/-- The command runs a cipher and so checks BLEN (60_exceptions.md R220). -/
def Instr.isRun : Instr → Bool
  | .ksb _ _ => false
  | .tksb _ => false
  | .bcr _ => true
  | .tcr => true
  | .tcx _ => true

/-- The offset can be read (R51): mapped, and not CMD. -/
def readableOffset (off : Nat) : Bool :=
  decide (off ≤ 0x017 ∨ (0x020 ≤ off ∧ off ≤ 0x030) ∨ (0x032 ≤ off ∧ off ≤ 0x035) ∨ (0x100 ≤ off ∧ off ≤ 0x21F))

/-- The offset can be written (R51, R53): KM, IBUF, BLEN or CMD. -/
def writableOffset (off : Nat) : Bool :=
  decide (off ≤ 0x017 ∨ (0x020 ≤ off ∧ off ≤ 0x027) ∨ off = 0x030 ∨ off = 0x031)

/-- The transaction is one the host may make (R262): one byte wide, at an offset the map gives that access. -/
def HostOp.wellFormed : HostOp → Bool
  | .read off => readableOffset off
  | .write off _ => writableOffset off
  | .writeBack off => writableOffset off
  | .reset => true
  | .wideRead _ _ => false
  | .wideWrite _ _ _ _ => false

end Sys2Proof
end

