-- ==== Sys2Proof/Decode.lean ====
section
/-! DEFINITION. Decoding a command byte, "a total function from the 256 byte values to a command or to `illegal`"
(30_encoding.md R72), rejecting by name; then the encoder, from the same map (R70, R73, R76). -/

namespace Sys2Proof

/-- Why a byte is no command: the classes of R74. -/
inductive Illegal where
  /-- OP in {0, 6..15}. -/
  | operation
  /-- Bit 3, the Z bit, is set. -/
  | zBit
  /-- DIR = 1 where the command takes no direction (BCR, TCR). -/
  | direction
  /-- STG = 3 for KSB or BCR, or STG != 0 for TKSB, TCR or TCX. -/
  | stage
deriving DecidableEq, Repr

/-- DIR as a direction: 0 ENC, 1 DEC (R70, R14). -/
def Dir.ofBit (b : Bool) : Dir := if b then .dec else .enc

/-- A direction as the DIR bit (R14). -/
def Dir.toBit : Dir → Bool
  | .enc => false
  | .dec => true

/-- The STG field of a command that takes a stage; 3 is illegal (R70). -/
def decodeStage (stg : Nat) : Except Illegal Stage :=
  if h : stg < 3 then .ok ⟨stg, h⟩ else .error .stage

/-- The command of a byte whose Z bit is 0, from its fields OP, DIR and STG (R72). -/
def decodeFields (op : Nat) (dir : Bool) (stg : Nat) : Except Illegal Instr :=
  match op with
  | 1 => (decodeStage stg).map fun s => .ksb s (Dir.ofBit dir)
  | 2 => if stg = 0 then .ok (.tksb (Dir.ofBit dir)) else .error .stage
  | 3 => if dir then .error .direction else (decodeStage stg).map fun s => .bcr s
  | 4 => if dir then .error .direction else if stg = 0 then .ok .tcr else .error .stage
  | 5 => if stg = 0 then .ok (.tcx (Dir.ofBit dir)) else .error .stage
  | _ => .error .operation

/-- Decoding a command byte (R70, R72): OP = bits[7:4], Z = bits[3], DIR = bits[2], STG = bits[1:0]. -/
def decode (c : Byte) : Except Illegal Instr :=
  if c.getLsbD 3 then .error .zBit
  else decodeFields (c.extractLsb' 4 4).toNat (c.getLsbD 2) (c.extractLsb' 0 2).toNat

/-- The bit DIR in its place in the byte. -/
def Dir.field (d : Dir) : Byte := BitVec.ofNat 8 (d.toBit.toNat <<< 2)

/-- Encoding a command (R73, R76): `0x10 | (d << 2) | s` and so on. -/
def encode : Instr → Byte
  | .ksb s d => 0x10#8 ||| d.field ||| BitVec.ofNat 8 s.val
  | .tksb d => 0x20#8 ||| d.field
  | .bcr s => 0x30#8 ||| BitVec.ofNat 8 s.val
  | .tcr => 0x40#8
  | .tcx d => 0x50#8 ||| d.field

/-- The byte whose bits the opcode table numbers `w`, of which `nbits` are given and the rest are 0. -/
def tableByte (nbits w : Nat) : Byte := BitVec.ofNat 8 (w % 2 ^ nbits)

/-- The command the decoder reads from the table's word `w`. Every command is one byte (R70, R75), so a word of more than
eight bits is none. -/
def decodeTableWord (nbits w : Nat) : Option Instr :=
  if 8 < nbits then none else (decode (tableByte nbits w)).toOption

end Sys2Proof
end

