-- ==== Sys2Proof/Config.lean ====
section
/-! DEFINITION. The configuration: what is fixed for the life of one device and what the spec leaves open.

The spec gives no table entry and no key byte (00_scope.md R6, R9; 92_eei_decisions.md D19): "A model must take the tables
as arguments". Every cipher function therefore takes a `Tables` argument, and the machine is run on `Config.tables`,
of which only R117's `WF` is known. R34, R35: neither the tables nor FORMAT_KEY is state. -/

namespace Sys2Proof

/-- The table parameters of R9 (shapes and ranges; R110 to R116), in the destination-indexed, zero-based convention of
R15: entry `i` is the source position of the bit that lands at position `i`. The ranges are carried by the types. -/
structure Tables where
  /-- T_IP, the initial permutation (R110). -/
  ip   : Vector (Fin 64) 64
  /-- T_PC1C, the half of the split key permutation that makes C (R111). -/
  pc1c : Vector (Fin 64) 28
  /-- T_PC1D, the half of the split key permutation that makes D (R111). -/
  pc1d : Vector (Fin 64) 28
  /-- T_PC2, the subkey-compression permutation over C ‖ D (R112). -/
  pc2  : Vector (Fin 56) 48
  /-- T_E, the round-expansion permutation (R114). -/
  e    : Vector (Fin 32) 48
  /-- T_P, the P permutation (R115). -/
  p    : Vector (Fin 32) 32
  /-- T_S[0..7], each table row by row: entry index `16·row + col` (R116). -/
  s    : Vector (Vector (BitVec 4) 64) 8
deriving DecidableEq, Repr, Inhabited

/-- The table part of R117's `WF`: T_IP is a bijection (R110), the 56 entries of T_PC1C and T_PC1D are distinct (R111),
every value 0..31 occurs in T_E (R114) and T_P is a bijection (R115). The ranges of R110 to R116 hold by type. -/
abbrev Tables.WF (t : Tables) : Prop :=
  t.ip.toList.Nodup ∧ (t.pc1c.toList ++ t.pc1d.toList).Nodup ∧
    (∀ x : Fin 32, x ∈ t.e.toList) ∧ t.p.toList.Nodup

/-- All the parameters of R9: the tables and FORMAT_KEY. -/
structure Params where
  tables    : Tables
  formatKey : KeyMaterial
deriving DecidableEq, Repr, Inhabited

/-- R117, `WF(params)`: the tables are well formed and FORMAT_KEY is 24 bytes, each below 0x80. -/
abbrev Params.WF (p : Params) : Prop :=
  p.tables.WF ∧ ∀ i : Fin 24, (p.formatKey[i] : Byte) < 0x80#8

/-- The columns 0..15, four rows alike: the substitution table of INST-ID, `T_S[j](row, col) = col`. -/
def identityBox : Vector (BitVec 4) 64 := Vector.ofFn fun i => BitVec.ofNat 4 i

/-- INST-ID (95_test_vectors.md section 2), the spec's own "identity-like" tables. -/
def instId : Tables where
  ip   := Vector.ofFn fun i => i
  pc1c := Vector.ofFn fun i => ⟨i, by omega⟩
  pc1d := Vector.ofFn fun i => ⟨28 + i, by omega⟩
  pc2  := Vector.ofFn fun i => if i.val < 24 then ⟨i, by omega⟩ else ⟨i + 4, by omega⟩
  e    := Vector.ofFn fun i => ⟨2 * i / 3, by omega⟩
  p    := Vector.ofFn fun i => i
  s    := Vector.ofFn fun _ => identityBox

/-- The open tables of R9 (D19, U5): no value is known. Notes/assumptions 3. -/
opaque Config.openTables : Tables

/-- The open FORMAT_KEY of R9 (D19, U6): 24 ASCII characters, so 7 bits each; no value is known. Notes/assumptions 4. -/
opaque Config.formatKeyChars : Vector (BitVec 7) 24

/-- The free value of a draw (R24, R25, R32, R52; U4, U13): the byte that the `n`-th draw of a run returns. Nothing is
known of it. Notes/assumptions 6. -/
opaque Config.draw : Nat → Byte

/-- A table set made well formed: the set itself if R117 holds of it, else INST-ID. Every well-formed table set is the
image of itself, so `Config.tables` may be any of them and nothing else. -/
def Tables.orIdentity (t : Tables) : Tables := if t.WF then t else instId

/-- The tables the machine runs on: some table set of which only `WF` is known (R117). -/
def Config.tables : Tables := Config.openTables.orIdentity

/-- FORMAT_KEY, each byte below 0x80 (R9, R117). -/
def Config.formatKey : KeyMaterial := Config.formatKeyChars.map fun c => c.setWidth 8

/-- The parameters the machine runs on. -/
def Config.params : Params := ⟨Config.tables, Config.formatKey⟩

end Sys2Proof
end

