-- ==== Sys2Proof/Machine/BitField.lean ====
section
/-! DEFINITION. The two leaf components of the cipher, BitField and PermutationTables (40_bitfield_permutation.md), and the
bit-vector operations of 00_scope.md R12. Pure functions: no register, no flag, no fault (R105). -/

namespace Sys2Proof.Machine

/-! ### Bit vectors (R12) -/

/-- The bit vector whose position `p` is `f p`, for `p` in `0..n-1`. -/
def ofPos (f : Nat → Bool) : (n : Nat) → BitVec n
  | 0 => 0#0
  | n + 1 => (ofPos f n).concat (f n)

/-- `v[a..a+len-1]`, renumbered from 0 (R12). -/
def slice {n : Nat} (v : BitVec n) (a len : Nat) : BitVec len :=
  ofPos (fun p => v.getMsbD (a + p)) len

/-- Byte `i` of a byte sequence; positions past its end are never asked for. -/
def byteAt {n : Nat} (bytes : Vector Byte n) (i : Nat) : Byte :=
  if h : i < n then bytes[i] else 0#8

/-! ### The primitives (R100 to R102) -/

/-- `getBit(block, p) = (block[p div 8] >> (7 - (p mod 8))) & 1` (R100), over a byte sequence of any length. -/
def getBit {n : Nat} (bytes : Vector Byte n) (p : Nat) : Bool :=
  (byteAt bytes (p / 8)).getLsbD (7 - p % 8)

/-- `getBit32(w, p) = (w >> (31 - p)) & 1` (R101). -/
def getBit32 (w : BitVec 32) (p : Nat) : Bool := w.getLsbD (31 - p)

/-- `placeBit(b, d)`: the `bv(64)` with only the bit at position `d` set, to `b` (R102). -/
def placeBit (b : Bool) (d : Nat) : BitVec 64 :=
  ofPos (fun p => if p = d then b else false) 64

/-- `bitsOf(B)`: the bit vector of a byte sequence, position `p` the bit `getBit B p` (R11(a), R12). The width is `8·n`
for `n` bytes; it is given, so that 8 bytes are a `BitVec 64` as written. -/
def bitsOf {n : Nat} (w : Nat) (bytes : Vector Byte n) : BitVec w := ofPos (getBit bytes) w

/-- `bytesOf(v)`, the inverse of `bitsOf`: byte `b` holds positions `8b..8b+7`, position `8b` in bit 7 (R12, R136). -/
def bytesOf {w : Nat} (n : Nat) (v : BitVec w) : Vector Byte n :=
  Vector.ofFn fun b : Fin n => slice v (8 * b.val) 8

/-! ### The permutation network (R103, R104) -/

/-- `Permute(T, v)[i] = v[T[i]]` (R103, R15). -/
def permute {m n : Nat} (table : Vector (Fin m) n) (v : BitVec m) : BitVec n :=
  ofPos (fun i => if h : i < n then v.getMsbD table[i] else false) n

/-- `Inverse(T)`, the table `U` with `U[T[i]] = i` (R104). At a value that no entry of `T` has, which a bijection
leaves none of, the entry is the value itself. -/
def inverse {n : Nat} (table : Vector (Fin n) n) : Vector (Fin n) n :=
  Vector.ofFn fun d => if h : table.toList.idxOf d < n then ⟨table.toList.idxOf d, h⟩ else d

/-! ### The rotation schedule (R8, R113) -/

/-- T_ROT, "1 bit for rounds {0,1,8,15}, 2 bits otherwise" (R8, R113): the one table whose values the source gives. -/
def tRot : Vector Nat 16 := #v[1, 1, 2, 2, 2, 2, 2, 2, 1, 2, 2, 2, 2, 2, 2, 1]

end Sys2Proof.Machine
end

