-- ==== Sys2Proof/Machine/State.lean ====
section
/-! DEFINITION. The state of the engine (10_state.md), the reasons a step can stop, and the state after reset.

The registers are those of R20, each under its own name. The working values L, R, C, D, X, RND, STG of R33 are local to one
command and stand as variables of its function (R33 allows it; notes/assumptions 11). The tables and FORMAT_KEY are
configuration, not state (R34, R35). The last four fields are the MODEL's own, not the spec's. -/

namespace Sys2Proof.Machine

/-- The registers of the address map (20_memory.md R51), one name per mapped offset. -/
inductive Reg where
  /-- KM[i], offset 0x000 + i. -/
  | km (i : Fin 24)
  /-- IBUF[i], offset 0x020 + i. -/
  | ibuf (i : Fin 8)
  /-- OBUF[i], offset 0x028 + i. -/
  | obuf (i : Fin 8)
  /-- BLEN, offset 0x030. -/
  | blen
  /-- CMD, offset 0x031. -/
  | cmd
  /-- STATUS, offset 0x032. -/
  | status
  /-- FCAUSE, offset 0x033. -/
  | fcause
  /-- FINFO, offset 0x034. -/
  | finfo
  /-- SCHST, offset 0x035. -/
  | schst
  /-- Byte `b` of TKS[s][r], offset 0x100 + 96·s + 6·r + b. -/
  | tks (s : Stage) (r : Fin 16) (b : Fin 6)
deriving DecidableEq, Repr

/-- The three faults of the engine (60_exceptions.md R220). Taking one is a NEXT state (R226), not a stop. -/
inductive FaultCause where
  /-- Code 1 (R221). -/
  | invalidBlockLength
  /-- Code 2 (R222). -/
  | illegalCommand
  /-- Code 3 (R223). -/
  | scheduleNotBuilt
deriving DecidableEq, Repr

/-- Reasons to stop with a fault: NONE. Every fault of this hardware is the fault entry of R226, after which the engine
goes on in the Faulted state and still answers reads and a reset, so no step ends in one. -/
inductive Fault where
deriving DecidableEq, Repr

/-- Reasons to refuse a host transaction. Each but the first is an access that R58 gives no meaning ("the model refuses
the transaction"); none is raised by a command. All are SAFE: the model stops where a device may go on. -/
inductive Refusal where
  /-- A command without a meaning in this model; raised by no arm of `exec`. Safe. -/
  | notModelled (mnemonic : String)
  /-- A read of CMD (R27, R58). Raised by a host read. Safe. -/
  | readOfCmd
  /-- A read of an unmapped offset (R51, R58). Raised by a host read. Safe. -/
  | unmappedRead (off : Nat)
  /-- A write to an unmapped offset (R51, R58). Raised by a host write. Safe. -/
  | unmappedWrite (off : Nat)
  /-- A write to a read-only register (R51, R58). Raised by a host write. Safe. -/
  | readOnlyWrite (off : Nat)
  /-- An access above 0x3FF, outside the address space (R50, R58). Raised by a host read or write. Safe. -/
  | outsideRegisterFile (off : Nat)
  /-- An access wider than one byte (R13, R58). Raised by a wide read or write. Safe. -/
  | wideAccess (off : Nat)
  /-- A write back (MVOI, R77) by a host that has read nothing. Raised by `writeBack`. Safe. -/
  | nothingToWriteBack
deriving DecidableEq, Repr

/-- The state of the machine (R20), plain data. -/
structure State where
  /-- KM[0..23], the key material register (R23). -/
  km : KeyMaterial
  /-- IBUF[0..7], the input block register (R24). -/
  ibuf : Block
  /-- OBUF[0..7], the output block register (R25). -/
  obuf : Block
  /-- BLEN: ILEN = bits[3:0], OLEN = bits[7:4] (R26). -/
  blen : Byte
  /-- STATUS: OV = bits[0], FLT = bits[1], bits[7:2] read as 0 (R28). -/
  status : Byte
  /-- FCAUSE, the fault cause code (R29). -/
  fcause : Byte
  /-- FINFO, the command byte that faulted (R30). -/
  finfo : Byte
  /-- SCHST: SV0..SV2 = bits[2:0], SD0..SD2 = bits[6:4], bits 3 and 7 read as 0 (R31). -/
  schst : Byte
  /-- TKS[s][r], the schedule store (R32). -/
  tks : TripleKeySchedule
  /-- The model's own: whether IBUF[i] has been written since reset, which R52 makes a read depend on. -/
  ibufWritten : Vector Bool 8
  /-- The model's own: how many draws have been taken, the argument of the next one (`Config.draw`). -/
  draws : Nat
  /-- The model's own: the host transactions still to be performed, the next one first (R19, R59). -/
  script : List HostOp
  /-- The model's own: the bytes the script's reads have returned, in order (R76). -/
  reads : List Byte
deriving DecidableEq, Repr

/-- What one step answers. -/
abbrev Outcome := Host.Outcome State Fault Refusal

/-- The state after reset (R40, R250) of a device with the given FORMAT_KEY. IBUF, OBUF and TKS have no reset value in the
spec; the zeros here are never read (R52 makes such a read a draw): DESIGN CHOICE, notes/assumptions 5. -/
def State.resetWith (formatKey : KeyMaterial) : State where
  km := formatKey
  ibuf := Vector.replicate 8 0#8
  obuf := Vector.replicate 8 0#8
  blen := 0x88#8
  status := 0x00#8
  fcause := 0x00#8
  finfo := 0x00#8
  schst := 0x00#8
  tks := Vector.replicate 3 (Vector.replicate 16 0#48)
  ibufWritten := Vector.replicate 8 false
  draws := 0
  script := []
  reads := []

/-- The machine right after reset, with KM = FORMAT_KEY (R40). -/
def State.reset : State := State.resetWith Config.formatKey

end Sys2Proof.Machine
end

