-- ==== Sys2Proof/Machine/Flags.lean ====
section
/-! DEFINITION. The status registers' bits (10_state.md R26, R28, R31; bits[..] numbering of R11(b)) and every change of
them. There are no arithmetic condition codes (R28). -/

namespace Sys2Proof.Machine

/-- `1 << i` as a byte. -/
def bitAt (i : Nat) : Byte := 1#8 <<< i

/-- STATUS.OV, bits[0] (R28). -/
def State.ov (m : State) : Bool := m.status.getLsbD 0

/-- STATUS.FLT, bits[1]: the engine is Faulted (R28, R226). -/
def State.flt (m : State) : Bool := m.status.getLsbD 1

/-- `STATUS.OV <- 1` (R28). -/
def withOv (status : Byte) : Byte := status ||| bitAt 0

/-- `STATUS.FLT <- 1` (R28, R226). -/
def withFlt (status : Byte) : Byte := status ||| bitAt 1

/-- SCHST.SVs, bits[s]: TKS[s] has been built since reset (R31). -/
def State.sv (m : State) (s : Stage) : Bool := m.schst.getLsbD s.val

/-- SCHST.SDs, bits[4+s]: the direction TKS[s] was last built with, DEC as 1 (R31). -/
def State.sd (m : State) (s : Stage) : Bool := m.schst.getLsbD (4 + s.val)

/-- `SCHST.SVs <- 1; SCHST.SDs <- d` (R140), every other bit kept. -/
def withBuilt (s : Stage) (d : Dir) (schst : Byte) : Byte :=
  let marked := schst ||| bitAt s.val
  match d with
  | .enc => marked &&& ~~~ (bitAt (4 + s.val))
  | .dec => marked ||| bitAt (4 + s.val)

/-- BLEN.ILEN, bits[3:0] (R26). -/
def State.ilen (m : State) : Nat := (m.blen.extractLsb' 0 4).toNat

/-- BLEN.OLEN, bits[7:4] (R26). -/
def State.olen (m : State) : Nat := (m.blen.extractLsb' 4 4).toNat

/-- The condition of `InvalidBlockLength`: `BLEN.ILEN != 8 or BLEN.OLEN != 8` (R221). -/
def State.badLength (m : State) : Bool := m.ilen != 8 || m.olen != 8

/-- The FCAUSE code of a fault (R29, R220). -/
def FaultCause.code : FaultCause → Byte
  | .invalidBlockLength => 1#8
  | .illegalCommand => 2#8
  | .scheduleNotBuilt => 3#8

end Sys2Proof.Machine
end

