-- ==== Sys2Proof/Machine/Operands.lean ====
section
/-! DEFINITION. What a command reads (30_encoding.md R71): a direction, the key bytes of a stage, the input block. The other
operand, TKS[s], is read as it stands. -/

namespace Sys2Proof

/-- `not ENC = DEC`, `not DEC = ENC` (00_scope.md R14). -/
def Dir.opposite : Dir → Dir
  | .enc => .dec
  | .dec => .enc

end Sys2Proof

namespace Sys2Proof.Machine

/-- The key of stage `s`: KM[8s..8s+7] (10_state.md R23, R71). -/
def stageKey (km : KeyMaterial) (s : Stage) : Block :=
  Vector.ofFn fun i => km[8 * s.val + i.val]'(by omega)

/-- How many of the first `n` bytes of IBUF nothing has written since reset. -/
def State.unwrittenBelow (m : State) (n : Nat) : Nat := (m.ibufWritten.toList.take n).count false

/-- How many draws a command that reads all of IBUF takes: one for each byte nothing has written (R52, U4). -/
def State.inputDraws (m : State) : Nat := m.unwrittenBelow 8

/-- The input block as a run command reads it: each written byte its value, each unwritten byte a draw of its own, taken
in ascending order (R24, R52; U4: "a run command that reads an unwritten IBUF byte computes on a draw"). -/
def State.inputBlock (m : State) : Block :=
  Vector.ofFn fun i =>
    bif m.ibufWritten[i] then m.ibuf[i] else Config.draw (m.draws + m.unwrittenBelow i.val)

end Sys2Proof.Machine
end

