-- ==== Sys2Proof/Machine/Ops.lean ====
section
/-! DEFINITION. The shared operations over the registers: the address map (20_memory.md R51), a read of one register (R52), the
writes, fault entry (60_exceptions.md R226) and the one return from it, reset (R227, R250). -/

namespace Sys2Proof.Machine

/-! ### The address map (R51) -/

/-- The offset of a register (R51). -/
def Reg.offset : Reg → Nat
  | .km i => i.val
  | .ibuf i => 0x020 + i.val
  | .obuf i => 0x028 + i.val
  | .blen => 0x030
  | .cmd => 0x031
  | .status => 0x032
  | .fcause => 0x033
  | .finfo => 0x034
  | .schst => 0x035
  | .tks s r b => 0x100 + 96 * s.val + 6 * r.val + b.val

/-- The register at an offset; none where the map has no register (R51). -/
def regAt (off : Nat) : Option Reg :=
  if h : off < 0x018 then some (.km ⟨off, h⟩)
  else if off < 0x020 then none
  else if h : off < 0x028 then some (.ibuf ⟨off - 0x020, by omega⟩)
  else if h : off < 0x030 then some (.obuf ⟨off - 0x028, by omega⟩)
  else if off = 0x030 then some .blen
  else if off = 0x031 then some .cmd
  else if off = 0x032 then some .status
  else if off = 0x033 then some .fcause
  else if off = 0x034 then some .finfo
  else if off = 0x035 then some .schst
  else if off < 0x100 then none
  else if h : off < 0x220 then
    some (.tks ⟨(off - 0x100) / 96, by omega⟩ ⟨(off - 0x100) % 96 / 6, by omega⟩
      ⟨(off - 0x100) % 6, Nat.mod_lt _ (by decide)⟩)
  else none

/-- The last offset of the address space, 0x000..0x3FF (R50). -/
def lastOffset : Nat := 0x3FF

/-! ### Reading (R52) -/

/-- What a read of a register gives. -/
inductive ReadResult where
  /-- The register's current value. -/
  | value (v : Byte)
  /-- A draw: any 8-bit value, not the same on two reads. -/
  | draw
  /-- The register cannot be read (CMD, R27). -/
  | unreadable
deriving DecidableEq, Repr

/-- A read of one register (R52): its value, or a draw for an IBUF byte nothing has written, for OBUF while OV = 0 (R25)
and for the window of a stage with SV = 0 (R32). -/
def State.readReg (m : State) : Reg → ReadResult
  | .km i => .value m.km[i]
  | .ibuf i => bif m.ibufWritten[i] then .value m.ibuf[i] else .draw
  | .obuf i => bif m.ov then .value m.obuf[i] else .draw
  | .blen => .value m.blen
  | .cmd => .unreadable
  | .status => .value m.status
  | .fcause => .value m.fcause
  | .finfo => .value m.finfo
  | .schst => .value m.schst
  | .tks s r b => bif m.sv s then .value (bytesOf 6 m.tks[s][r])[b] else .draw

/-- The host gets a byte back: it joins the script's result, in order (R76). -/
def State.answer (m : State) (v : Byte) : State := { m with reads := m.reads ++ [v] }

/-- `n` draws are taken. -/
def State.takeDraws (m : State) (n : Nat) : State := { m with draws := m.draws + n }

/-! ### Writing (R53 and the commands) -/

/-- `KM[i] <- v` (R53). -/
def State.setKm (m : State) (i : Fin 24) (v : Byte) : State := { m with km := m.km.set i v }

/-- `IBUF[i] <- v` (R53); the byte has now been written. -/
def State.setIbuf (m : State) (i : Fin 8) (v : Byte) : State :=
  { m with ibuf := m.ibuf.set i v, ibufWritten := m.ibufWritten.set i true }

/-- `BLEN <- v` (R53). -/
def State.setBlen (m : State) (v : Byte) : State := { m with blen := v }

/-- `TKS[s] <- ks; SCHST.SVs <- 1; SCHST.SDs <- d` (R140). -/
def State.storeSchedule (m : State) (s : Stage) (d : Dir) (ks : KeySchedule) : State :=
  { m with tks := m.tks.set s ks, schst := withBuilt s d m.schst }

/-- `OBUF[0..7] <- b; STATUS.OV <- 1` (R180, R200, R201). -/
def State.storeResult (m : State) (b : Block) : State :=
  { m with obuf := b, status := withOv m.status }

/-- The host's next transaction is taken from the script. -/
def State.withScript (m : State) (ops : List HostOp) : State := { m with script := ops }

/-! ### Fault entry and return -/

/-- Fault entry, `raise <Fault>(c)` (R226): FCAUSE, FINFO and STATUS.FLT are written and nothing else changes. -/
def raise (cause : FaultCause) (c : Byte) (m : State) : State :=
  { m with fcause := cause.code, finfo := c, status := withFlt m.status }

/-- Reset asserted (R250), the only way out of the Faulted state (R227): every register of R40 takes its reset value. The
host's script and what it has read are not the engine's, and the draws go on, so no draw is repeated after it. -/
def resetEngine (formatKey : KeyMaterial) (m : State) : State :=
  { State.resetWith formatKey with draws := m.draws, script := m.script, reads := m.reads }

end Sys2Proof.Machine
end

