-- ==== Sys2Proof/Machine/KeySchedule.lean ====
section
/-! DEFINITION. The key schedule engine (41_key_schedule.md): the functions KeySchedule and TripleSchedule, and the commands
KSB and TKSB. -/

namespace Sys2Proof.Machine

/-- The two key halves C and D, working values of one build (R33, R131). -/
structure KeyHalves where
  c : BitVec 28
  d : BitVec 28
deriving DecidableEq, Repr

/-- The split of the 8-byte key: `C = Permute(T_PC1C, bitsOf(key))`, `D = Permute(T_PC1D, bitsOf(key))` (R131). -/
def splitKey (t : Tables) (key : Block) : KeyHalves :=
  ⟨permute t.pc1c (bitsOf 64 key), permute t.pc1d (bitsOf 64 key)⟩

/-- Both halves rotated left by `k`, each within its own 28 bits (R132). -/
def KeyHalves.rotate (h : KeyHalves) (k : Nat) : KeyHalves := ⟨h.c.rotateLeft k, h.d.rotateLeft k⟩

/-- `Permute(T_PC2, C ‖ D)` (R132). -/
def compress (t : Tables) (h : KeyHalves) : RoundKey := permute t.pc2 (h.c ++ h.d)

/-- The round index at which the subkey of walk step `i` is stored: `i` for ENC, `15 - i` for DEC (R132). -/
def storeIndex (dir : Dir) (i : Fin 16) : Fin 16 :=
  match dir with
  | .enc => i
  | .dec => ⟨15 - i.val, by omega⟩

/-- One step of the rotation walk: rotate by T_ROT[i], compress, store (R130, R132). -/
def walkStep (t : Tables) (dir : Dir) (acc : KeyHalves × KeySchedule) (i : Fin 16) : KeyHalves × KeySchedule :=
  let h := acc.1.rotate tRot[i]
  (h, acc.2.set (storeIndex dir i) (compress t h))

/-- `KeySchedule(key, dir)` (R130): the walk over `i = 0..15`. The store it starts from is overwritten whole. -/
def keySchedule (t : Tables) (key : Block) (dir : Dir) : KeySchedule :=
  ((List.finRange 16).foldl (walkStep t dir) (splitKey t key, Vector.replicate 16 0#48)).2

/-- `TripleSchedule(km, dir)` (R139): stages A and C in direction `dir`, stage B in the opposite one. -/
def tripleSchedule (t : Tables) (km : KeyMaterial) (dir : Dir) : TripleKeySchedule :=
  #v[keySchedule t (stageKey km 0) dir, keySchedule t (stageKey km 1) dir.opposite,
     keySchedule t (stageKey km 2) dir]

/-! ### The commands KSB and TKSB -/

/-- `KSB s, d` on the tables `t` (R140): TKS[s], SVs and SDs are written; BLEN is not read. -/
def ksbWith (t : Tables) (s : Stage) (d : Dir) (m : State) : Outcome :=
  .next (m.storeSchedule s d (keySchedule t (stageKey m.km s) d))

/-- The build of all three stages, `TKS <- TripleSchedule(KM, d)` with SCHST's bits (R141): SD1 is `not d`. -/
def State.buildAll (t : Tables) (d : Dir) (m : State) : State :=
  let tks := tripleSchedule t m.km d
  ((m.storeSchedule 0 d tks[0]).storeSchedule 1 d.opposite tks[1]).storeSchedule 2 d tks[2]

/-- `TKSB d` on the tables `t` (R141). -/
def tksbWith (t : Tables) (d : Dir) (m : State) : Outcome := .next (m.buildAll t d)

/-- The meaning of KSB (R140). -/
def execKsb (s : Stage) (d : Dir) (m : State) : Outcome := ksbWith Config.tables s d m

/-- The meaning of TKSB (R141). -/
def execTksb (d : Dir) (m : State) : Outcome := tksbWith Config.tables d m

end Sys2Proof.Machine
end

