-- ==== Sys2Proof/Machine/RoundFunction.lean ====
section
/-! DEFINITION. The round function F (42_round_function.md): expansion, key mixing, eight substitutions, the P permutation.
A pure function of the tables, the right half and the round key: "Deterministic, no failure modes" (R150). -/

namespace Sys2Proof.Machine

/-- Steps 1 and 2: `Y = Permute(T_E, R) ^ rk` (R151, R152). -/
def mixKey (t : Tables) (r : BitVec 32) (rk : RoundKey) : BitVec 48 := permute t.e r ^^^ rk

/-- Group `j`, positions `6j..6j+5` (R152). -/
def group (y : BitVec 48) (j : Fin 8) : BitVec 6 := slice y (6 * j.val) 6

/-- `row = 2·g[0] + g[5]` (R153). -/
def sboxRow (g : BitVec 6) : Nat := 2 * (g.getMsbD 0).toNat + (g.getMsbD 5).toNat

/-- `col = 8·g[1] + 4·g[2] + 2·g[3] + g[4]` (R153). -/
def sboxCol (g : BitVec 6) : Nat :=
  8 * (g.getMsbD 1).toNat + 4 * (g.getMsbD 2).toNat + 2 * (g.getMsbD 3).toNat + (g.getMsbD 4).toNat

/-- `T_S[j](row, col)` of group `j`, the entry `16·row + col` of its table (R116, R153). -/
def substitute (t : Tables) (y : BitVec 48) (j : Fin 8) : BitVec 4 :=
  t.s[j][16 * sboxRow (group y j) + sboxCol (group y j)]'(by
    have bit (b : Bool) : b.toNat ≤ 1 := by cases b <;> decide
    have := bit ((group y j).getMsbD 0)
    have := bit ((group y j).getMsbD 1)
    have := bit ((group y j).getMsbD 2)
    have := bit ((group y j).getMsbD 3)
    have := bit ((group y j).getMsbD 4)
    have := bit ((group y j).getMsbD 5)
    simp only [sboxRow, sboxCol]
    omega)

/-- Steps 3 and 4: the eight outputs concatenated, group 0 first (R154). -/
def substituteAll (t : Tables) (y : BitVec 48) : BitVec 32 :=
  substitute t y 0 ++ substitute t y 1 ++ substitute t y 2 ++ substitute t y 3 ++
    substitute t y 4 ++ substitute t y 5 ++ substitute t y 6 ++ substitute t y 7

/-- `F(R, rk)` (R150), with step 5, the P permutation (R155). -/
def roundF (t : Tables) (r : BitVec 32) (rk : RoundKey) : BitVec 32 :=
  permute t.p (substituteAll t (mixKey t r rk))

end Sys2Proof.Machine
end

