-- ==== Sys2Proof/Machine/BlockCipher.lean ====
section
/-! DEFINITION. The block cipher (43_block_cipher.md): the 16-round Feistel network bounded by the initial permutation and
its inverse, and the command BCR. -/

namespace Sys2Proof.Machine

/-- The two 32-bit halves L and R, working values of one run (R33). -/
structure Halves where
  l : BitVec 32
  r : BitVec 32
deriving DecidableEq, Repr

/-- The initial permutation and the split: L is positions 0..31, R positions 32..63 (R171). -/
def initialHalves (t : Tables) (block : Block) : Halves :=
  let v := permute t.ip (bitsOf 64 block)
  ⟨slice v 0 32, slice v 32 32⟩

/-- One of rounds 0..14: `(L, R) <- (R, F(R, rk) ^ L)` (R172). -/
def swapRound (t : Tables) (h : Halves) (rk : RoundKey) : Halves := ⟨h.r, roundF t h.r rk ^^^ h.l⟩

/-- Round 15, which does not swap: `L <- F(R, rk) ^ L` (R172). -/
def lastRound (t : Tables) (h : Halves) (rk : RoundKey) : Halves := ⟨roundF t h.r rk ^^^ h.l, h.r⟩

/-- The halves after rounds `0 .. n-1` of the swapping rounds, in ascending order, round `r` using `ks[r]` (R172). -/
def halvesAfter (t : Tables) (ks : KeySchedule) (h : Halves) (n : Nat) : Halves :=
  (ks.toList.take n).foldl (swapRound t) h

/-- The final permutation: `bytesOf(Permute(Inverse(T_IP), L ‖ R))` (R173). -/
def finalBlock (t : Tables) (h : Halves) : Block := bytesOf 8 (permute (inverse t.ip) (h.l ++ h.r))

/-- `BlockCipher(block, ks)` (R170). -/
def blockCipher (t : Tables) (block : Block) (ks : KeySchedule) : Block :=
  finalBlock t (lastRound t (halvesAfter t ks (initialHalves t block) 15) ks[15])

/-- `rev(ks)[r] = ks[15 - r]` (R175). -/
def reverseSchedule (ks : KeySchedule) : KeySchedule := Vector.ofFn fun r => ks[15 - r.val]

/-- `E_k(x)` and `D_k(x)`, the block cipher with the schedule of one key in one direction (44_triple_cipher.md,
"Shorthand"). -/
def singleCipher (t : Tables) (key : Block) (dir : Dir) (x : Block) : Block :=
  blockCipher t x (keySchedule t key dir)

/-! ### The command BCR -/

/-- `BCR s` on the tables `t` (R180): the length check, then the schedule check (R224), then the run from IBUF to OBUF.
The command byte a fault records is the command's own encoding. -/
def bcrWith (t : Tables) (s : Stage) (m : State) : Outcome :=
  if m.badLength then .next (raise .invalidBlockLength (encode (.bcr s)) m)
  else if m.sv s then
    .next ((m.takeDraws m.inputDraws).storeResult (blockCipher t m.inputBlock m.tks[s]))
  else .next (raise .scheduleNotBuilt (encode (.bcr s)) m)

/-- The meaning of BCR (R180). -/
def execBcr (s : Stage) (m : State) : Outcome := bcrWith Config.tables s m

end Sys2Proof.Machine
end

