-- ==== Sys2Proof/Machine/TripleCipher.lean ====
section
/-! DEFINITION. The triple cipher (44_triple_cipher.md): three block ciphers in the order A, B, C, and the commands TCR
and TCX. -/

namespace Sys2Proof.Machine

/-- `TripleRun(block, tks)` (R190): stage A, then B, then C, "each consuming the previous stage's output". -/
def tripleRun (t : Tables) (block : Block) (tks : TripleKeySchedule) : Block :=
  blockCipher t (blockCipher t (blockCipher t block tks[0]) tks[1]) tks[2]

/-- `TripleCipher(block, km, dir)` (R191). -/
def tripleCipher (t : Tables) (block : Block) (km : KeyMaterial) (dir : Dir) : Block :=
  tripleRun t block (tripleSchedule t km dir)

/-- `swap(km) = k3 ‖ k2 ‖ k1` (R194). -/
def swapKeys (km : KeyMaterial) : KeyMaterial :=
  Vector.ofFn fun i => km[8 * (2 - i.val / 8) + i.val % 8]'(by omega)

/-! ### The commands TCR and TCX -/

/-- SV0, SV1 and SV2 are all 1 (R200). -/
def State.allBuilt (m : State) : Bool := m.sv 0 && m.sv 1 && m.sv 2

/-- `TCR` on the tables `t` (R200): the checks in the order of R224, then the three stages of TKS. -/
def tcrWith (t : Tables) (m : State) : Outcome :=
  if m.badLength then .next (raise .invalidBlockLength (encode .tcr) m)
  else if m.allBuilt then
    .next ((m.takeDraws m.inputDraws).storeResult (tripleRun t m.inputBlock m.tks))
  else .next (raise .scheduleNotBuilt (encode .tcr) m)

/-- `TCX d` on the tables `t` (R201): the length check before the build, so a faulting TCX leaves TKS and SCHST. -/
def tcxWith (t : Tables) (d : Dir) (m : State) : Outcome :=
  if m.badLength then .next (raise .invalidBlockLength (encode (.tcx d)) m)
  else
    let built := m.buildAll t d
    .next ((built.takeDraws built.inputDraws).storeResult (tripleRun t built.inputBlock built.tks))

/-- The meaning of TCR (R200). -/
def execTcr (m : State) : Outcome := tcrWith Config.tables m

/-- The meaning of TCX (R201). -/
def execTcx (d : Dir) (m : State) : Outcome := tcxWith Config.tables d m

end Sys2Proof.Machine
end

