-- ==== Sys2Proof/Machine/Dispatch.lean ====
section
/-! DEFINITION. The dispatcher: one arm per command, each one direct call of its meaning (30_encoding.md R72). -/

namespace Sys2Proof.Machine

/-- The effect of one command, reached only when STATUS.FLT = 0 (R72). -/
def exec (i : Instr) (s : State) : Host.Outcome State Fault Refusal :=
  match i with
  | .ksb stage d => Sys2Proof.Machine.execKsb stage d s
  | .tksb d => Sys2Proof.Machine.execTksb d s
  | .bcr stage => Sys2Proof.Machine.execBcr stage s
  | .tcr => Sys2Proof.Machine.execTcr s
  | .tcx d => Sys2Proof.Machine.execTcx d s

end Sys2Proof.Machine
end

