-- ==== Sys2Proof/Machine/Transact.lean ====
section
/-! DEFINITION. The host's transactions on the engine (20_memory.md R52, R53, R58; 30_encoding.md R72; 70_reset_and_hazards.md
R250, R262), one step each. What a command does is an argument, so that Machine/Step runs `exec` and
Machine/Parametric runs the same transactions on any table set. -/

namespace Sys2Proof.Machine

/-- `MemRead(off, 1)` (R52): the value or a draw joins the script's result and nothing else changes; Faulted or not. An
offset that has no register to read is refused (R58). -/
def hostRead (off : Nat) (m : State) : Outcome :=
  if lastOffset < off then .refused (.outsideRegisterFile off)
  else
    match regAt off with
    | none => .refused (.unmappedRead off)
    | some reg =>
      match m.readReg reg with
      | .value v => .next (m.answer v)
      | .draw => .next ((m.takeDraws 1).answer (Config.draw m.draws))
      | .unreadable => .refused .readOfCmd

/-- Executing command byte `c` (R72): the command it encodes, or fault entry with IllegalCommand (R222). -/
def executeCommand (run : Instr → State → Outcome) (c : Byte) (m : State) : Outcome :=
  match decode c with
  | .ok i => run i m
  | .error _ => .next (raise .illegalCommand c m)

/-- `MemWrite(off, 1, v)` (R53): ignored while Faulted; else stored, executed or refused by the map of R51. -/
def hostWrite (run : Instr → State → Outcome) (off : Nat) (v : Byte) (m : State) : Outcome :=
  if lastOffset < off then .refused (.outsideRegisterFile off)
  else if m.flt then .next m
  else
    match regAt off with
    | none => .refused (.unmappedWrite off)
    | some (.km i) => .next (m.setKm i v)
    | some (.ibuf i) => .next (m.setIbuf i v)
    | some .blen => .next (m.setBlen v)
    | some .cmd => executeCommand run v m
    | some (.obuf _) => .refused (.readOnlyWrite off)
    | some .status => .refused (.readOnlyWrite off)
    | some .fcause => .refused (.readOnlyWrite off)
    | some .finfo => .refused (.readOnlyWrite off)
    | some .schst => .refused (.readOnlyWrite off)
    | some (.tks _ _ _) => .refused (.readOnlyWrite off)

/-- One host transaction, performed to completion (R17, R56, R262). -/
def transact (formatKey : KeyMaterial) (run : Instr → State → Outcome) (op : HostOp) (m : State) : Outcome :=
  match op with
  | .read off => hostRead off m
  | .write off v => hostWrite run off v m
  | .writeBack off =>
    match m.reads.getLast? with
    | some v => hostWrite run off v m
    | none => .refused .nothingToWriteBack
  | .reset => .next (resetEngine formatKey m)
  | .wideRead off _ => .refused (.wideAccess off)
  | .wideWrite off _ _ _ => .refused (.wideAccess off)

/-- Performing a script's next transaction (R59). With no transaction left the engine waits and nothing changes (R59(c),
R250: "the engine waits for the host's first transaction"). -/
def nextTransaction (formatKey : KeyMaterial) (run : Instr → State → Outcome) (m : State) : Outcome :=
  match m.script with
  | [] => .next m
  | op :: rest => transact formatKey run op (m.withScript rest)

/-- The transaction that gives the engine a command: a write of its byte to CMD (R27, R70). -/
def commandOp (c : Byte) : HostOp := .write (Reg.offset .cmd) c

end Sys2Proof.Machine
end

