-- ==== Sys2Proof/Machine/Step.lean ====
section
/-! DEFINITION. One step of the machine: the host's next transaction (00_scope.md R17: "It takes one step per host
transaction"). -/

namespace Sys2Proof.Machine

/-- One step: the next transaction of the script, commands by `exec`, on the device's own parameters. -/
def step (m : State) : Host.Outcome State Fault Refusal := nextTransaction Config.formatKey exec m

/-- The state whose next transaction writes the table's word to CMD. A command is not fetched from a place (R22): the host
supplies its byte, so this puts the write at the head of the script and changes nothing else. -/
def State.withFetchWord (m : State) (nbits w : Nat) : State :=
  m.withScript (commandOp (tableByte nbits w) :: m.script)

end Sys2Proof.Machine
end

