-- ==== Sys2Proof/Machine/Script.lean ====
section
/-! DEFINITION. Host scripts (30_encoding.md R76, R77): the command mnemonics and the pseudo-instructions with their
expansions, and the decoder loop that 70_reset_and_hazards.md R263 to R265 record so that the host can be modelled. The
engine knows none of this: it sees the transactions one at a time. -/

namespace Sys2Proof.Machine

/-- A command mnemonic "is nothing but the `WR` to CMD it stands for" (R76). -/
def commandFor (i : Instr) : HostOp := commandOp (encode i)

/-- `LDKM b0 .. b23` (R77). -/
def loadKeyMaterial (km : KeyMaterial) : List HostOp :=
  (List.finRange 24).map fun i => .write (Reg.offset (.km i)) km[i]

/-- `LDKEY s, b0 .. b7` (R77). -/
def loadKey (s : Stage) (key : Block) : List HostOp :=
  (List.finRange 8).map fun i => .write (8 * s.val + i.val) key[i]

/-- `LDBLK b0 .. b7` (R77): the eight bytes of the block, then 0x88 to BLEN. -/
def loadBlock (block : Block) : List HostOp :=
  ((List.finRange 8).map fun i => .write (Reg.offset (.ibuf i)) block[i]) ++ [.write (Reg.offset .blen) 0x88#8]

/-- `RDBLK` (R77). -/
def readBlock : List HostOp := (List.finRange 8).map fun i => .read (Reg.offset (.obuf i))

/-- `RDRK s, r` (R77). -/
def readRoundKey (s : Stage) (r : Fin 16) : List HostOp :=
  (List.finRange 6).map fun b => .read (Reg.offset (.tks s r b))

/-- `MVOI` (R77): copy OBUF to IBUF, each byte written back as it was read. -/
def moveOutputToInput : List HostOp :=
  (List.finRange 8).flatMap fun i => [.read (Reg.offset (.obuf i)), .writeBack (Reg.offset (.ibuf i))]

/-- `ENC3 b0 .. b7` (R77). -/
def encrypt3 (block : Block) : List HostOp := loadBlock block ++ [commandFor (.tcx .enc)] ++ readBlock

/-- `DEC3 b0 .. b7` (R77). -/
def decrypt3 (block : Block) : List HostOp := loadBlock block ++ [commandFor (.tcx .dec)] ++ readBlock

/-- A block of the payload: its first eight bytes, a short block filled with 0x00 (R264). -/
def padBlock (bytes : List Byte) : Block := Vector.ofFn fun i => bytes.getD i.val 0x00#8

/-- The payload "cut into consecutive 8-byte blocks", the last one padded (R264). -/
def payloadBlocks (payload : List Byte) : List Block :=
  (List.range ((payload.length + 7) / 8)).map fun n => padBlock (payload.drop (8 * n))

/-- The decoder's use of the core (R263): `TKSB DEC` once, then for each block, in order, write IBUF, `TCR`, read OBUF. -/
def decodeScript (payload : List Byte) : List HostOp :=
  commandFor (.tksb .dec) ::
    (payloadBlocks payload).flatMap fun b => loadBlock b ++ [commandFor .tcr] ++ readBlock

/-- What the decoder keeps of the bytes its script has read: all of each full block and the first `N` bytes of a last
block of `N` bytes, in block order (R264, R265). -/
def keptBytes (payload reads : List Byte) : List Byte := reads.take payload.length

end Sys2Proof.Machine
end

