-- ==== Sys2Proof/Safety.lean ====
section
/-! DEFINITION. The terms claims are made in: when a run has ended and succeeded (00_scope.md R19), which states hold the same
registers, and the invariant of the status and fault registers. -/

namespace Sys2Proof

/-- The command builds schedules (41_key_schedule.md R140, R141; 44_triple_cipher.md R201). -/
def Instr.builds : Instr → Stage → Bool
  | .ksb s _, k => k == s
  | .tksb _, _ => true
  | .bcr _, _ => false
  | .tcr, _ => false
  | .tcx _, _ => true

/-- The registers a command's own effect writes (spec/opcode_table.json, "writes"). -/
def Instr.writes (i : Instr) : Machine.Reg → Bool
  | .tks k _ _ => i.builds k
  | .schst => i.builds 0 || i.builds 1 || i.builds 2
  | .obuf _ => i.isRun
  | .status => i.isRun
  | .km _ => false
  | .ibuf _ => false
  | .blen => false
  | .cmd => false
  | .fcause => false
  | .finfo => false

namespace Machine

/-- "a host script has ended when its last transaction has been performed" (R19). -/
abbrev State.Ended (m : State) : Prop := m.script = []

/-- A run that ended, and not in the Faulted state (R19, R227). -/
abbrev State.Succeeded (m : State) : Prop := m.Ended ∧ m.flt = false

/-- Every register of R20 holds the same in both states, and the same bytes of IBUF have been written. -/
structure State.SameRegisters (m m' : State) : Prop where
  km : m'.km = m.km
  ibuf : m'.ibuf = m.ibuf
  ibufWritten : m'.ibufWritten = m.ibufWritten
  obuf : m'.obuf = m.obuf
  blen : m'.blen = m.blen
  status : m'.status = m.status
  fcause : m'.fcause = m.fcause
  finfo : m'.finfo = m.finfo
  schst : m'.schst = m.schst
  tks : m'.tks = m.tks

/-- The registers no command writes (R23, R24, R26: written only by the host and by reset) and the host's own lists hold
the same in both states. -/
structure State.SameInputs (m m' : State) : Prop where
  km : m'.km = m.km
  ibuf : m'.ibuf = m.ibuf
  ibufWritten : m'.ibufWritten = m.ibufWritten
  blen : m'.blen = m.blen
  script : m'.script = m.script
  reads : m'.reads = m.reads

/-- The fault registers and the Faulted bit hold the same in both states. -/
structure State.SameFault (m m' : State) : Prop where
  fcause : m'.fcause = m.fcause
  finfo : m'.finfo = m.finfo
  flt : m'.flt = m.flt

/-- Every stage's schedule and every bit of SCHST hold the same in both states. -/
structure State.SameSchedules (m m' : State) : Prop where
  tks : m'.tks = m.tks
  schst : m'.schst = m.schst

/-- OBUF, STATUS.OV and the count of draws hold the same in both states. -/
structure State.SameOutput (m m' : State) : Prop where
  obuf : m'.obuf = m.obuf
  ov : m'.ov = m.ov
  draws : m'.draws = m.draws

/-- `t` is `m` after the entry of the fault with code `code` and command byte `c` (R226): the three writes, and every
other register, the other bits of STATUS, and the host's lists as before. -/
structure State.FaultEntered (m : State) (code c : Byte) (t : State) : Prop where
  fcause : t.fcause = code
  finfo : t.finfo = c
  status : t.status = m.status ||| 0x02#8
  inputs : m.SameInputs t
  schedules : m.SameSchedules t
  output : m.SameOutput t

/-- The host's next transaction is a reset. -/
abbrev State.ResetNext (m : State) : Prop := m.script.head? = some HostOp.reset

/-- The fault record is true (R29, R30, R220): FINFO holds a command byte that the state still shows to raise the fault
FCAUSE names, in the order of R224. -/
structure State.TrueRecord (m : State) : Prop where
  /-- No fault: FINFO keeps its reset value (R30). -/
  noFault : m.fcause = 0#8 → m.finfo = 0#8
  /-- InvalidBlockLength (R221): the byte is a run command and BLEN is not 0x88. -/
  length : m.fcause = 1#8 → m.blen ≠ 0x88#8 ∧ ∃ i, decode m.finfo = .ok i ∧ i.isRun = true
  /-- IllegalCommand (R222): the byte decodes to no command. -/
  illegal : m.fcause = 2#8 → ∃ why, decode m.finfo = .error why
  /-- ScheduleNotBuilt (R223): the byte is BCR of a stage, or TCR, and a stage it needs is not built. -/
  schedule : m.fcause = 3#8 → m.blen = 0x88#8 ∧
    ((∃ s, decode m.finfo = .ok (.bcr s) ∧ m.sv s = false) ∨
      (decode m.finfo = .ok .tcr ∧ ∃ s, m.sv s = false))

/-- The invariant of the status and fault registers (R28 to R31, R220). -/
structure State.Inv (m : State) : Prop where
  /-- STATUS[7:2] reads as 0 (R28). -/
  statusReserved : m.status &&& 0xFC#8 = 0#8
  /-- FLT "equals (FCAUSE != 0)" (R28). -/
  faulted : m.flt = true ↔ m.fcause ≠ 0#8
  /-- "Other values never occur" (R29). -/
  cause : m.fcause.toNat ≤ 3
  /-- SCHST[3] and SCHST[7] read as 0 (R31). -/
  schstReserved : m.schst &&& 0x88#8 = 0#8
  /-- SDs is "0 while SVs = 0" (R31). -/
  direction : ∀ s, m.sv s = false → m.sd s = false
  /-- The fault record is true. -/
  record : m.TrueRecord

/-- Every schedule marked built is the schedule of some key in the direction SD gives (R31, R32): nothing else has
written it. -/
def State.SchedulesDerived (m : State) : Prop :=
  ∀ s, m.sv s = true → ∃ key, m.tks[s] = keySchedule Config.tables key (Dir.ofBit (m.sd s))

end Machine

end Sys2Proof
end

