-- ==== Sys2Proof/Certificates/Slice0/Obligations.lean ====
section
/-! DEFINITION. The statements for the provers, from the numbered rules of spec/, family by family. `t : Tables` is any table
set; the machine's own is `Config.tables`, of which only R117 is known.

A clause on `script`, `reads`, `draws` or `ibufWritten`, also inside SameInputs, SameOutput or SameRegisters, is about the
model's own fields, not the spec's: the model's choice (notes/assumptions 1, 6, 7, 17). So is `inputBlock`, what a run command
reads where the host has not written all of IBUF (notes/assumptions 8). -/

open Sys2Proof Sys2Proof.Machine

/-! ### BitField and the permutation network (40_bitfield_permutation.md) -/

/-- R100, R101, R102: what getBit, getBit32 and placeBit are, bit by bit, and that placed bits combine alike by OR, XOR and
addition. -/
def Obligations.PrimitivesReadAndPlaceOneBit : Prop :=
  (∀ (n : Nat) (bytes : Vector Byte n) (p : Nat) (h : p / 8 < n),
      (getBit bytes p).toNat = (bytes[p / 8].toNat >>> (7 - p % 8)) % 2 ∧
      (bitsOf (8 * n) bytes).getMsbD p = getBit bytes p) ∧
  (∀ (w : BitVec 32) (p : Nat), p < 32 →
      (getBit32 w p).toNat = (w.toNat >>> (31 - p)) % 2 ∧ w.getMsbD p = getBit32 w p) ∧
  (∀ (b : Bool) (d p : Nat), p < 64 → (placeBit b d).getMsbD p = if p = d then b else false) ∧
  (∀ d, placeBit false d = 0#64) ∧
  (∀ (b b' : Bool) (d d' : Nat), d < 64 → d' < 64 → d ≠ d' →
      placeBit b d &&& placeBit b' d' = 0#64 ∧
      placeBit b d ||| placeBit b' d' = placeBit b d ^^^ placeBit b' d' ∧
      placeBit b d ||| placeBit b' d' = placeBit b d + placeBit b' d')

/-- R103: Permute selects positions; it is the OR of placed bits kept to its width; it is linear over exclusive-or and
keeps the constant vectors. -/
def Obligations.PermuteSelectsPositions : Prop :=
  ∀ (m n : Nat) (table : Vector (Fin m) n) (v : BitVec m),
    (∀ i (h : i < n), (permute table v).getMsbD i = v.getMsbD table[i]) ∧
    (n ≤ 64 → permute table v =
      slice ((List.finRange n).foldl (fun acc i => acc ||| placeBit (v.getMsbD (table[i] : Fin m).val) i.val) 0#64) 0 n) ∧
    (∀ v', permute table (v ^^^ v') = permute table v ^^^ permute table v') ∧
    permute table (0#m) = 0#n ∧
    permute table (BitVec.allOnes m) = BitVec.allOnes n

/-- R104: `Inverse(T)[T[i]] = i`, and the two permutations undo each other, for a `T` that is a bijection. -/
def Obligations.InverseUndoesPermute : Prop :=
  ∀ (n : Nat) (table : Vector (Fin n) n), table.toList.Nodup →
    (∀ i : Fin n, (inverse table)[table[i]] = i) ∧
    (∀ v : BitVec n, permute (inverse table) (permute table v) = v) ∧
    (∀ v : BitVec n, permute table (permute (inverse table) v) = v)

/-- R11(a), R12, R54, R136: `bytesOf` and `bitsOf` are inverse, byte `b` of a vector holds positions `8b..8b+7`, and four
bytes make a 32-bit half in big-endian order. -/
def Obligations.BytesAndBitsAreInverse : Prop :=
  (∀ (n : Nat) (bytes : Vector Byte n), bytesOf n (bitsOf (8 * n) bytes) = bytes) ∧
  (∀ (n : Nat) (v : BitVec (8 * n)), bitsOf (8 * n) (bytesOf n v) = v) ∧
  (∀ (n : Nat) (v : BitVec (8 * n)) (b : Fin n) (p : Nat), p < 8 →
      (bytesOf n v)[b].getMsbD p = v.getMsbD (8 * b.val + p)) ∧
  (∀ b0 b1 b2 b3 : Byte, (bitsOf 32 #v[b0, b1, b2, b3]).toNat =
      b0.toNat * 2 ^ 24 + b1.toNat * 2 ^ 16 + b2.toNat * 2 ^ 8 + b3.toNat)

/-! ### The key schedule (41_key_schedule.md) -/

/-- R131, R132, R135: subkey `i` of the encrypt schedule is the compression of the initial halves, each rotated left by the
cumulative amount of rounds `0..i`; after the walk the halves are the initial ones, and the last subkey is theirs. -/
def Obligations.ScheduleFollowsTheRotationWalk : Prop :=
  ∀ (t : Tables) (key : Block),
    (∀ j : Fin 28, (permute t.pc1c (bitsOf 64 key)).getMsbD j.val = getBit key t.pc1c[j].val ∧
      (permute t.pc1d (bitsOf 64 key)).getMsbD j.val = getBit key t.pc1d[j].val) ∧
    (∀ (i : Fin 16) (total : Nat),
      total = (#v[1, 2, 4, 6, 8, 10, 12, 14, 15, 17, 19, 21, 23, 25, 27, 28] : Vector Nat 16)[i] →
      (keySchedule t key .enc)[i] =
        permute t.pc2 ((permute t.pc1c (bitsOf 64 key)).rotateLeft total ++
          (permute t.pc1d (bitsOf 64 key)).rotateLeft total)) ∧
    ((List.finRange 16).foldl (walkStep t .enc) (splitKey t key, Vector.replicate 16 0#48)).1 = splitKey t key ∧
    (keySchedule t key .enc)[15] =
      permute t.pc2 (permute t.pc1c (bitsOf 64 key) ++ permute t.pc1d (bitsOf 64 key))

/-- R134: the decrypt schedule is the encrypt schedule's round list reversed. -/
def Obligations.DecryptScheduleIsReversed : Prop :=
  ∀ (t : Tables) (key : Block) (r : Fin 16),
    (keySchedule t key .dec)[r] = (keySchedule t key .enc)[15 - r.val]

/-- R133: two keys that agree on every position T_PC1C and T_PC1D select give equal schedules. -/
def Obligations.OmittedKeyBitsDoNotMatter : Prop :=
  ∀ (t : Tables) (key key' : Block),
    (∀ p : Fin 64, p ∈ t.pc1c.toList ∨ p ∈ t.pc1d.toList → getBit key p.val = getBit key' p.val) →
    ∀ dir, keySchedule t key dir = keySchedule t key' dir

/-- R137(a), (b): when the initial C and the initial D are each constant, all sixteen subkeys are equal and the two directions
give the same schedule; so the all-zero key gives all-zero subkeys and the all-one key all-one subkeys. -/
def Obligations.ConstantHalvesGiveOneSubkey : Prop :=
  (∀ (t : Tables) (key : Block) (a b : Bool) (dir : Dir),
      (∀ x ∈ t.pc1c.toList, getBit key x.val = a) → (∀ x ∈ t.pc1d.toList, getBit key x.val = b) →
      (∀ r r' : Fin 16, (keySchedule t key dir)[r] = (keySchedule t key dir)[r']) ∧
      keySchedule t key .enc = keySchedule t key .dec) ∧
  (∀ (t : Tables) (dir : Dir) (r : Fin 16),
      (keySchedule t (Vector.replicate 8 0x00#8) dir)[r] = 0#48 ∧
      (keySchedule t (Vector.replicate 8 0xFF#8) dir)[r] = BitVec.allOnes 48)

/-- R139: the three builds, stage B in the opposite direction, each from its own eight bytes, and the reversal law for all
three stages. -/
def Obligations.TripleScheduleDirections : Prop :=
  ∀ (t : Tables) (km : KeyMaterial) (dir : Dir) (s : Stage),
    (∀ key : Block, (∀ i : Fin 8, key[i] = km[8 * s.val + i.val]'(by omega)) →
      (tripleSchedule t km dir)[s] = keySchedule t key (if s = 1 then dir.opposite else dir)) ∧
    (∀ r : Fin 16, (tripleSchedule t km .dec)[s][r] = (tripleSchedule t km .enc)[s][15 - r.val])

/-! ### The round function (42_round_function.md) -/

/-- R151 to R155, the five steps: expansion and key mixing position by position; the table entry each 6-bit group selects,
by the group's number; the concatenation as a number; the P permutation. -/
def Obligations.RoundFunctionInFiveSteps : Prop :=
  ∀ (t : Tables) (r : BitVec 32) (rk : RoundKey),
    (∀ p : Fin 48, (mixKey t r rk).getMsbD p.val = (getBit32 r t.e[p].val ^^ rk.getMsbD p.val)) ∧
    (∀ (y : BitVec 48) (j : Fin 8) (v : Nat) (index : Fin 64), v = (y.toNat >>> (42 - 6 * j.val)) % 64 →
      index.val = ((v &&& 0x20) ||| ((v &&& 1) <<< 4) ||| ((v >>> 1) &&& 15)) →
      substitute t y j = t.s[j][index]) ∧
    (∀ y : BitVec 48, (substituteAll t y).toNat =
      ((List.finRange 8).map fun j => (substitute t y j).toNat * 16 ^ (7 - j.val)).sum) ∧
    (∀ i : Fin 32, (roundF t r rk).getMsbD i.val = (substituteAll t (mixKey t r rk)).getMsbD t.p[i].val)

/-- R156(b), (d), (e): F depends on R and rk only through the mixed value; F(0, 0); F = 0 under all-zero tables. -/
def Obligations.RoundFunctionDependsOnTheMix : Prop :=
  (∀ (t : Tables) (r r' : BitVec 32) (rk rk' : RoundKey),
      permute t.e r ^^^ rk = permute t.e r' ^^^ rk' → roundF t r rk = roundF t r' rk') ∧
  (∀ (t : Tables) (r : BitVec 32) (rk : RoundKey),
      roundF t r rk = roundF t 0#32 (rk ^^^ permute t.e r)) ∧
  (∀ t : Tables, roundF t 0#32 0#48 = permute t.p (t.s[0][0] ++ t.s[1][0] ++ t.s[2][0] ++ t.s[3][0] ++
      t.s[4][0] ++ t.s[5][0] ++ t.s[6][0] ++ t.s[7][0])) ∧
  (∀ (t : Tables) (r : BitVec 32) (rk : RoundKey), (∀ (j : Fin 8) (x : Fin 64), t.s[j][x] = 0#4) →
      roundF t r rk = 0#32)

/-! ### The block cipher (43_block_cipher.md) -/

/-- R171 to R173: the split, the fifteen swapping rounds in ascending order, the last round without a swap, and the final
permutation over L ‖ R. -/
def Obligations.SixteenRoundsWithFifteenSwaps : Prop :=
  ∀ (t : Tables) (block : Block) (ks : KeySchedule),
    let h0 := initialHalves t block
    let h := halvesAfter t ks h0
    (∀ p : Fin 32, h0.l.getMsbD p.val = getBit block (t.ip[p.val]).val ∧
      h0.r.getMsbD p.val = getBit block (t.ip[32 + p.val]).val) ∧
    h 0 = h0 ∧
    (∀ r : Fin 15, h (r.val + 1) = ⟨(h r.val).r, roundF t (h r.val).r ks[r.val] ^^^ (h r.val).l⟩) ∧
    blockCipher t block ks =
      bytesOf 8 (permute (inverse t.ip) ((roundF t (h 15).r ks[15] ^^^ (h 15).l) ++ (h 15).r))

/-- R174: the textbook form, sixteen swapping rounds and then the halves exchanged, is the same function. -/
def Obligations.TextbookFormIsTheSame : Prop :=
  ∀ (t : Tables) (block : Block) (ks : KeySchedule) (l r : Nat → BitVec 32),
    (⟨l 0, r 0⟩ : Halves) = initialHalves t block →
    (∀ n : Fin 16, l (n.val + 1) = r n.val ∧ r (n.val + 1) = l n.val ^^^ roundF t (r n.val) ks[n]) →
    halvesAfter t ks (initialHalves t block) 15 = ⟨l 15, r 15⟩ ∧
    lastRound t (halvesAfter t ks (initialHalves t block) 15) ks[15] = ⟨r 16, l 16⟩ ∧
    blockCipher t block ks = bytesOf 8 (permute (inverse t.ip) (r 16 ++ l 16))

/-- R175, the inversion law: the block cipher with the reversed schedule undoes it, and so DEC undoes ENC and ENC undoes DEC
under one key. -/
def Obligations.ReversedScheduleInverts : Prop :=
  ∀ t : Tables, t.WF →
    (∀ (x : Block) (ks : KeySchedule), blockCipher t (blockCipher t x ks) (reverseSchedule ks) = x) ∧
    (∀ (key x : Block) (dir : Dir), singleCipher t key dir.opposite (singleCipher t key dir x) = x)

/-- R176: for a fixed schedule the block cipher is a bijection on the blocks. -/
def Obligations.BlockCipherIsABijection : Prop :=
  ∀ (t : Tables) (ks : KeySchedule), t.WF → Function.Bijective fun x => blockCipher t x ks

/-- R177(b), (c): with F identically zero the permuted halves are exchanged; with all subkeys equal the cipher is its own
inverse. -/
def Obligations.DegenerateCiphers : Prop :=
  (∀ (t : Tables) (x : Block) (ks : KeySchedule), (∀ r rk, roundF t r rk = 0#32) →
      blockCipher t x ks =
        bytesOf 8 (permute (inverse t.ip) ((initialHalves t x).r ++ (initialHalves t x).l))) ∧
  (∀ (t : Tables) (x : Block) (ks : KeySchedule), t.WF → (∀ r r' : Fin 16, ks[r] = ks[r']) →
      blockCipher t (blockCipher t x ks) ks = x)

/-! ### The triple cipher (44_triple_cipher.md) -/

/-- R193: the two directions written out; the stages run in the order A, B, C in both. -/
def Obligations.TripleDirectionsWrittenOut : Prop :=
  ∀ (t : Tables) (x : Block) (km : KeyMaterial) (k1 k2 k3 : Block),
    (∀ i : Fin 8, k1[i] = km[i.val] ∧ k2[i] = km[8 + i.val] ∧ k3[i] = km[16 + i.val]) →
    tripleCipher t x km .enc = singleCipher t k3 .enc (singleCipher t k2 .dec (singleCipher t k1 .enc x)) ∧
    tripleCipher t x km .dec = singleCipher t k3 .dec (singleCipher t k2 .enc (singleCipher t k1 .dec x))

/-- R194, the three round trips that hold: with swap(km), and with the same km when stages A and C have equal schedules. -/
def Obligations.TripleRoundTrips : Prop :=
  ∀ (t : Tables) (x : Block) (km : KeyMaterial), t.WF →
    tripleCipher t (tripleCipher t x km .enc) (swapKeys km) .dec = x ∧
    tripleCipher t (tripleCipher t x km .dec) (swapKeys km) .enc = x ∧
    (keySchedule t (stageKey km 0) .enc = keySchedule t (stageKey km 2) .enc →
      tripleCipher t (tripleCipher t x km .enc) km .dec = x)

/-- R195: a bijection for fixed km and direction; the reductions under equal schedules; DEC is the stages of ENC with each
schedule reversed. -/
def Obligations.TripleCipherLaws : Prop :=
  ∀ (t : Tables) (km : KeyMaterial) (dir : Dir), t.WF →
    Function.Bijective (fun x => tripleCipher t x km dir) ∧
    (keySchedule t (stageKey km 0) .enc = keySchedule t (stageKey km 1) .enc →
      ∀ x, tripleCipher t x km dir = singleCipher t (stageKey km 2) dir x) ∧
    (keySchedule t (stageKey km 1) .enc = keySchedule t (stageKey km 2) .enc →
      ∀ x, tripleCipher t x km dir = singleCipher t (stageKey km 0) dir x) ∧
    (∀ x, tripleCipher t x km .dec =
      tripleRun t x ((tripleSchedule t km .enc).map reverseSchedule))

/-! ### Command encoding (30_encoding.md) -/

/-- R73: the fourteen legal bytes, written out. -/
def Obligations.LegalBytesDecode : Prop :=
  decode 0b00010000#8 = .ok (.ksb 0 .enc) ∧ decode 0b00010001#8 = .ok (.ksb 1 .enc) ∧
  decode 0b00010010#8 = .ok (.ksb 2 .enc) ∧ decode 0b00010100#8 = .ok (.ksb 0 .dec) ∧
  decode 0b00010101#8 = .ok (.ksb 1 .dec) ∧ decode 0b00010110#8 = .ok (.ksb 2 .dec) ∧
  decode 0b00100000#8 = .ok (.tksb .enc) ∧ decode 0b00100100#8 = .ok (.tksb .dec) ∧
  decode 0b00110000#8 = .ok (.bcr 0) ∧ decode 0b00110001#8 = .ok (.bcr 1) ∧
  decode 0b00110010#8 = .ok (.bcr 2) ∧ decode 0b01000000#8 = .ok .tcr ∧
  decode 0b01010000#8 = .ok (.tcx .enc) ∧ decode 0b01010100#8 = .ok (.tcx .dec)

/-- R72, R73: decoding and encoding agree, both ways, for every command at every operand value. -/
def Obligations.DecodeAndEncodeAgree : Prop :=
  (∀ i : Instr, decode (encode i) = .ok i) ∧ (∀ (c : Byte) (i : Instr), decode c = .ok i → encode i = c)

/-- R73, R74: a byte is a command exactly when a row of the map selects it; fourteen bytes are; a byte with bit 3 set, with
OP in {0, 6..15}, with STG = 3, or with a field set that its command does not take, is none. -/
def Obligations.LegalBytesAreTheMap : Prop :=
  (∀ c : Byte, (∃ i, decode c = .ok i) ↔ legalCommandByte c = true) ∧
  ((List.range 256).filter fun n => legalCommandByte (BitVec.ofNat 8 n)).length = 14 ∧
  (∀ c : Byte, c.getLsbD 3 = true → ∃ why, decode c = .error why) ∧
  (∀ c : Byte, c.toNat / 16 = 0 ∨ 6 ≤ c.toNat / 16 → ∃ why, decode c = .error why) ∧
  (∀ c : Byte, c.toNat % 4 = 3 → ∃ why, decode c = .error why) ∧
  (∀ c : Byte, c.toNat / 16 = 3 ∨ c.toNat / 16 = 4 → c.getLsbD 2 = true → ∃ why, decode c = .error why) ∧
  (∀ c : Byte, c.toNat / 16 = 2 ∨ c.toNat / 16 = 4 ∨ c.toNat / 16 = 5 → c.toNat % 4 ≠ 0 →
    ∃ why, decode c = .error why)

/-- R72, R53: a step whose transaction writes a legal byte to CMD, when the engine is not Faulted, is `exec` of the command
that byte decodes to, with the transaction taken off the script; `withFetchWord` sets up exactly that. -/
def Obligations.StepRunsTheDecodedCommand : Prop :=
  (∀ (m : State) (c : Byte) (i : Instr) (rest : List HostOp),
      m.script = .write 0x031 c :: rest → m.flt = false → decode c = .ok i →
      step m = exec i (m.withScript rest)) ∧
  (∀ (m : State) (w : Nat) (i : Instr), w < 256 → m.flt = false → decodeTableWord 8 w = some i →
      step (m.withFetchWord 8 w) = exec i m)

/-- R222, R74, R226: writing an illegal byte to CMD enters IllegalCommand, code 2, with the byte in FINFO. -/
def Obligations.IllegalByteRaisesIllegalCommand : Prop :=
  ∀ (m : State) (c : Byte) (rest : List HostOp),
    m.script = .write 0x031 c :: rest → m.flt = false → legalCommandByte c = false →
    ∃ t, step m = .next t ∧ (m.withScript rest).FaultEntered 2#8 c t

/-! ### The commands (R140, R141, R180, R200, R201) -/

/-- R140: `KSB s, d` completes in every state: TKS[s] is the schedule of KM[8s..8s+7], SVs and SDs are written, and nothing
else is: the other stages, the reserved bits, OBUF, STATUS, the fault registers and the inputs stay. -/
def Obligations.KsbBuildsOneStage : Prop :=
  ∀ (s : Stage) (d : Dir) (m : State) (key : Block),
    (∀ i : Fin 8, key[i] = m.km[8 * s.val + i.val]'(by omega)) →
    ∃ t, exec (.ksb s d) m = .next t ∧
      t.tks[s] = keySchedule Config.tables key d ∧ t.sv s = true ∧ t.sd s = d.toBit ∧
      (∀ k : Stage, k ≠ s → t.tks[k] = m.tks[k] ∧ t.sv k = m.sv k ∧ t.sd k = m.sd k) ∧
      t.schst &&& 0x88#8 = m.schst &&& 0x88#8 ∧
      m.SameInputs t ∧ m.SameOutput t ∧ m.SameFault t ∧ t.status = m.status

/-- R141: `TKSB d` completes in every state: TKS is TripleSchedule(KM, d); SCHST is 0x27 after ENC and 0x57 after DEC where its
reserved bits read as 0 (R31), and they stay as they are; nothing else changes. -/
def Obligations.TksbBuildsAllStages : Prop :=
  ∀ (d : Dir) (m : State),
    ∃ t, exec (.tksb d) m = .next t ∧
      t.tks = tripleSchedule Config.tables m.km d ∧
      t.schst &&& 0x88#8 = m.schst &&& 0x88#8 ∧
      (m.schst &&& 0x88#8 = 0#8 → t.schst = (match d with | .enc => 0x27#8 | .dec => 0x57#8)) ∧
      (∀ k : Stage, t.sv k = true ∧ t.sd k = (if k = 1 then d.opposite else d).toBit) ∧
      m.SameInputs t ∧ m.SameOutput t ∧ m.SameFault t ∧ t.status = m.status

/-- R141: `TKSB d` equals `KSB 0, d; KSB 1, not d; KSB 2, d` in any order. -/
def Obligations.TksbIsThreeKsbInAnyOrder : Prop :=
  ∀ (d : Dir) (m : State) (a b c : Stage), a ≠ b → b ≠ c → a ≠ c →
    ∃ m1 m2,
      exec (.ksb a (if a = 1 then d.opposite else d)) m = .next m1 ∧
      exec (.ksb b (if b = 1 then d.opposite else d)) m1 = .next m2 ∧
      exec (.ksb c (if c = 1 then d.opposite else d)) m2 = exec (.tksb d) m

/-- R180: `BCR s` with BLEN = 0x88 and SVs = 1 writes the block cipher's result to OBUF and sets OV; nothing else changes but
the count of draws. The input is IBUF where all of it has been written. -/
def Obligations.BcrRunsOneStage : Prop :=
  ∀ (s : Stage) (m : State), m.blen = 0x88#8 → m.sv s = true →
    ∃ t, exec (.bcr s) m = .next t ∧
      t.obuf = blockCipher Config.tables m.inputBlock m.tks[s] ∧
      ((∀ i : Fin 8, m.ibufWritten[i] = true) →
        t.obuf = blockCipher Config.tables m.ibuf m.tks[s] ∧ t.draws = m.draws) ∧
      t.status = m.status ||| 0x01#8 ∧ m.SameInputs t ∧ m.SameSchedules t ∧ m.SameFault t

/-- R200: `TCR` with BLEN = 0x88 and all three stages built writes TripleRun(IBUF, TKS) to OBUF and sets OV; nothing else
changes but the count of draws. -/
def Obligations.TcrRunsThreeStages : Prop :=
  ∀ m : State, m.blen = 0x88#8 → (∀ s, m.sv s = true) →
    ∃ t, exec .tcr m = .next t ∧
      t.obuf = tripleRun Config.tables m.inputBlock m.tks ∧
      ((∀ i : Fin 8, m.ibufWritten[i] = true) →
        t.obuf = tripleRun Config.tables m.ibuf m.tks ∧ t.draws = m.draws) ∧
      t.status = m.status ||| 0x01#8 ∧ m.SameInputs t ∧ m.SameSchedules t ∧ m.SameFault t

/-- R201: `TCX d` with BLEN = 0x88 builds the three schedules, writes TripleCipher(IBUF, KM, d) to OBUF and sets OV; nothing
else changes but the count of draws. -/
def Obligations.TcxBuildsAndRuns : Prop :=
  ∀ (d : Dir) (m : State), m.blen = 0x88#8 →
    ∃ t, exec (.tcx d) m = .next t ∧
      t.tks = tripleSchedule Config.tables m.km d ∧
      (∀ k : Stage, t.sv k = true ∧ t.sd k = (if k = 1 then d.opposite else d).toBit) ∧
      t.schst &&& 0x88#8 = m.schst &&& 0x88#8 ∧
      t.obuf = tripleCipher Config.tables m.inputBlock m.km d ∧
      ((∀ i : Fin 8, m.ibufWritten[i] = true) →
        t.obuf = tripleCipher Config.tables m.ibuf m.km d ∧ t.draws = m.draws) ∧
      t.status = m.status ||| 0x01#8 ∧ m.SameInputs t ∧ m.SameFault t

/-- R201: `TCX d` equals `TKSB d; TCR` (under the lengths that let TCX run). -/
def Obligations.TcxIsTksbThenTcr : Prop :=
  ∀ (d : Dir) (m : State), m.blen = 0x88#8 →
    ∃ m1, exec (.tksb d) m = .next m1 ∧ exec .tcr m1 = exec (.tcx d) m

/-- R200: `TCR` equals `BCR 0`, a copy of OBUF to IBUF, `BCR 1`, a copy, `BCR 2` in its effect on OBUF. -/
def Obligations.TcrIsThreeBcr : Prop :=
  ∀ m : State, m.blen = 0x88#8 → (∀ s, m.sv s = true) → (∀ i : Fin 8, m.ibufWritten[i] = true) →
    ∃ m1 m2 m3 t,
      exec (.bcr 0) m = .next m1 ∧
      exec (.bcr 1) { m1 with ibuf := m1.obuf } = .next m2 ∧
      exec (.bcr 2) { m2 with ibuf := m2.obuf } = .next m3 ∧
      exec .tcr m = .next t ∧ m3.obuf = t.obuf

/-- R220, R232: every command is answered by a next state in every state, never by a stop. -/
def Obligations.EveryCommandCompletes : Prop :=
  ∀ (i : Instr) (m : State), ∃ t, exec i m = .next t

/-- R220, R226 and the "writes" of the opcode table: what a command leaves. It enters a fault with its own byte and nothing
else, or it changes only the registers the table gives it: every other offset of the register file reads as before. -/
def Obligations.CommandsChangeOnlyTheirRegisters : Prop :=
  ∀ (i : Instr) (m t : State), exec i m = .next t →
    m.SameInputs t ∧
    ((∃ code, (code = 1#8 ∨ code = 3#8) ∧ m.FaultEntered code (encode i) t) ∨
      (m.SameFault t ∧
        (∀ off reg, regAt off = some reg → i.writes reg = false → t.readReg reg = m.readReg reg) ∧
        (∀ k : Stage, i.builds k = false → t.tks[k] = m.tks[k] ∧ t.sv k = m.sv k ∧ t.sd k = m.sd k) ∧
        (i.isRun = false → m.SameOutput t)))

/-- R256, R180, R200, R61: BCR and TCR compute from IBUF and the schedules alone: two states that agree on these, on BLEN and
on the draws give the same OBUF, whatever KM and the SD bits hold. -/
def Obligations.RunsIgnoreKeyMaterial : Prop :=
  ∀ (m m' t t' : State), m.blen = 0x88#8 → m'.blen = 0x88#8 → m.ibuf = m'.ibuf →
    m.ibufWritten = m'.ibufWritten → m.draws = m'.draws → m.tks = m'.tks →
    (∀ s, m.sv s = true) → (∀ s, m'.sv s = true) →
    (∀ s, exec (.bcr s) m = .next t → exec (.bcr s) m' = .next t' → t.obuf = t'.obuf) ∧
    (exec .tcr m = .next t → exec .tcr m' = .next t' → t.obuf = t'.obuf)

/-- R257, R194 on the machine: what `TCX d` made of a block under KM = k1 ‖ k2 ‖ k3, `TCX not d` under KM = k3 ‖ k2 ‖ k1 turns
back into the block. -/
def Obligations.TcxUndoneBySwappedKeys : Prop :=
  ∀ (d : Dir) (m : State), m.blen = 0x88#8 →
    ∃ m1, exec (.tcx d) m = .next m1 ∧
      ∀ m2 : State, m2.blen = 0x88#8 → (∀ i : Fin 8, m2.ibufWritten[i] = true) →
        m2.ibuf = m1.obuf → m2.km = swapKeys m.km →
        ∃ m3, exec (.tcx d.opposite) m2 = .next m3 ∧ m3.obuf = m.inputBlock

/-! ### Faults (60_exceptions.md) -/

/-- R221, R224: every run command raises InvalidBlockLength, code 1, when BLEN is any value but 0x88, whatever has been built;
that is when ILEN or OLEN is not 8. A faulting TCX leaves TKS and SCHST. -/
def Obligations.WrongLengthRaisesInvalidBlockLength : Prop :=
  ∀ (i : Instr) (m : State), i.isRun = true → (m.ilen ≠ 8 ∨ m.olen ≠ 8) →
    m.blen ≠ 0x88#8 ∧ ∃ t, exec i m = .next t ∧ m.FaultEntered 1#8 (encode i) t

/-- R223, R224: with the lengths right, `BCR s` raises ScheduleNotBuilt, code 3, when SVs = 0, and TCR when any SV is 0. -/
def Obligations.UnbuiltScheduleRaisesScheduleNotBuilt : Prop :=
  ∀ (m : State) (s : Stage), m.blen = 0x88#8 → m.sv s = false →
    (∃ t, exec (.bcr s) m = .next t ∧ m.FaultEntered 3#8 (encode (.bcr s)) t) ∧
    (∃ t, exec .tcr m = .next t ∧ m.FaultEntered 3#8 (encode .tcr) t)

/-- R226, R53: while Faulted every byte write inside the address space is ignored, CMD included: nothing but the script
changes. -/
def Obligations.FaultedEngineIgnoresWrites : Prop :=
  ∀ (m : State) (off : Nat) (v : Byte) (rest : List HostOp),
    m.flt = true → off ≤ 0x3FF → m.script = .write off v :: rest → step m = .next (m.withScript rest)

/-- R227, R226: the Faulted state is left only by reset: any other step keeps every register. -/
def Obligations.FaultedUntilReset : Prop :=
  ∀ m t : State, m.flt = true → ¬ m.ResetNext → step m = .next t → m.SameRegisters t ∧ t.flt = true

/-! ### Host transactions (20_memory.md) -/

/-- R51: the address map, offset by offset, and every register at one offset only. -/
def Obligations.AddressMap : Prop :=
  (∀ i : Fin 24, regAt (0x000 + i.val) = some (.km i)) ∧
  (∀ i : Fin 8, regAt (0x020 + i.val) = some (.ibuf i)) ∧
  (∀ i : Fin 8, regAt (0x028 + i.val) = some (.obuf i)) ∧
  regAt 0x030 = some .blen ∧ regAt 0x031 = some .cmd ∧ regAt 0x032 = some .status ∧
  regAt 0x033 = some .fcause ∧ regAt 0x034 = some .finfo ∧ regAt 0x035 = some .schst ∧
  (∀ (s : Stage) (r : Fin 16) (b : Fin 6),
    regAt (0x100 + 96 * s.val + 6 * r.val + b.val) = some (.tks s r b)) ∧
  (∀ off, (0x018 ≤ off ∧ off ≤ 0x01F) ∨ (0x036 ≤ off ∧ off ≤ 0x0FF) ∨ 0x220 ≤ off → regAt off = none) ∧
  (∀ off off' reg, regAt off = some reg → regAt off' = some reg → off = off')

/-- R52, R25, R32: what each register reads as: its value; a draw for an IBUF byte nothing has written, for OBUF while OV = 0
and for the window of a stage with SV = 0; CMD not at all. A schedule byte holds positions 8b..8b+7 of its subkey. -/
def Obligations.RegistersReadAsTheirValues : Prop :=
  ∀ m : State,
    (∀ i : Fin 24, m.readReg (.km i) = .value m.km[i]) ∧
    (∀ i : Fin 8, m.readReg (.ibuf i) = bif m.ibufWritten[i] then .value m.ibuf[i] else .draw) ∧
    (∀ i : Fin 8, m.readReg (.obuf i) = bif m.status.getLsbD 0 then .value m.obuf[i] else .draw) ∧
    m.readReg .blen = .value m.blen ∧ m.readReg .status = .value m.status ∧
    m.readReg .fcause = .value m.fcause ∧ m.readReg .finfo = .value m.finfo ∧
    m.readReg .schst = .value m.schst ∧ m.readReg .cmd = .unreadable ∧
    (∀ (s : Stage) (r : Fin 16) (b : Fin 6), m.schst.getLsbD s.val = false → m.readReg (.tks s r b) = .draw) ∧
    (∀ (s : Stage) (r : Fin 16) (b : Fin 6), m.schst.getLsbD s.val = true →
      ∃ v, m.readReg (.tks s r b) = .value v ∧
        ∀ p : Fin 8, v.getMsbD p.val = m.tks[s][r].getMsbD (8 * b.val + p.val))

/-- R52: a read of a readable offset is answered in every state, Faulted included, and changes no register; the byte is the
register's value, or the next draw. -/
def Obligations.ReadChangesNoRegister : Prop :=
  ∀ (m : State) (off : Nat) (reg : Reg) (rest : List HostOp),
    m.script = .read off :: rest → regAt off = some reg → reg ≠ .cmd →
    ∃ t, step m = .next t ∧ m.SameRegisters t ∧ t.script = rest ∧
      ((∃ v, m.readReg reg = .value v ∧ t.reads = m.reads ++ [v] ∧ t.draws = m.draws) ∨
        (m.readReg reg = .draw ∧ t.reads = m.reads ++ [Config.draw m.draws] ∧ t.draws = m.draws + 1))

/-- R53, R256: a write to KM, IBUF or BLEN, when the engine is not Faulted, changes that one byte and nothing else: no status
bit, no schedule, no other byte. -/
def Obligations.WriteChangesOneByte : Prop :=
  ∀ (m : State) (v : Byte) (rest : List HostOp), m.flt = false →
    (∀ i : Fin 24, m.script = .write (0x000 + i.val) v :: rest →
      step m = .next { m with script := rest, km := m.km.set i v }) ∧
    (∀ i : Fin 8, m.script = .write (0x020 + i.val) v :: rest →
      step m = .next { m with script := rest, ibuf := m.ibuf.set i v, ibufWritten := m.ibufWritten.set i true }) ∧
    (m.script = .write 0x030 v :: rest → step m = .next { m with script := rest, blen := v })

/-- R58, R262: when the engine is not Faulted, a transaction is performed exactly when it is one the host may make; every other
is refused. -/
def Obligations.OnlyListedTransactionsAreAnswered : Prop :=
  ∀ (m : State) (op : HostOp) (rest : List HostOp), m.script = op :: rest → m.flt = false →
    (∀ off, op = .writeBack off → m.reads ≠ []) →
    (op.wellFormed = true → ∃ t, step m = .next t) ∧
    (op.wellFormed = false → ∃ why, step m = .refused why)

/-- R77: MVOI copies OBUF to IBUF: its sixteen transactions, from a state that is not Faulted and holds a result, leave IBUF
equal to OBUF, all written, and every other register as it was. -/
def Obligations.MoveOutputToInputCopiesTheBlock : Prop :=
  ∀ (m : State) (rest : List HostOp), m.flt = false → m.ov = true → m.script = moveOutputToInput ++ rest →
    core.run 16 m = .next { m with
      script := rest, ibuf := m.obuf, ibufWritten := Vector.replicate 8 true, reads := m.reads ++ m.obuf.toList }

/-! ### Reset and the whole machine -/

/-- R40, R250: the state right after reset: the control registers' values, KM = FORMAT_KEY, and IBUF, OBUF and TKS
unspecified, so that a read of any byte of them is a draw. -/
def Obligations.ResetValues : Prop :=
  State.reset.km = Config.formatKey ∧ State.reset.blen = 0x88#8 ∧ State.reset.status = 0x00#8 ∧
  State.reset.fcause = 0x00#8 ∧ State.reset.finfo = 0x00#8 ∧ State.reset.schst = 0x00#8 ∧
  (∀ i, State.reset.readReg (.ibuf i) = .draw) ∧ (∀ i, State.reset.readReg (.obuf i) = .draw) ∧
  (∀ s r b, State.reset.readReg (.tks s r b) = .draw)

/-- R250, R227: from any state, Faulted included, RST leaves every register as right after reset and runs no command. For KM,
BLEN, STATUS, FCAUSE, FINFO and SCHST that is the value R40 gives. R40 and R250 leave IBUF, OBUF and TKS unspecified: that
they hold what `State.reset` holds there is the model's choice (notes/assumptions 5, unsafe), with the written marks
(notes/assumptions 7). That the rest of the script, the bytes read and the draw count stay is its choice too
(notes/assumptions 6). -/
def Obligations.ResetFromAnyState : Prop :=
  ∀ (m : State) (rest : List HostOp), m.script = .reset :: rest →
    ∃ t, step m = .next t ∧ State.reset.SameRegisters t ∧ t.flt = false ∧
      t.script = rest ∧ t.reads = m.reads ∧ t.draws = m.draws

/-- The invariant of the status and fault registers (R28 to R31, R220) holds right after reset. -/
def Obligations.ResetMeetsTheInvariant : Prop := State.reset.Inv

/-- Every step keeps the invariant of the status and fault registers (R28 to R31, R220, R224, R226): the reserved bits read as
0, FLT says FCAUSE is not 0, FCAUSE is a listed code, SD is 0 where SV is, and the fault record is true. -/
def Obligations.EveryStepKeepsTheInvariant : Prop :=
  ∀ m t : State, m.Inv → step m = .next t → t.Inv

/-- R32, R31: every step keeps it true that a schedule marked built is the schedule of some key, in the direction its SD bit
gives; and it is true at reset. -/
def Obligations.BuiltSchedulesAreDerived : Prop :=
  State.reset.SchedulesDerived ∧
    ∀ m t : State, m.SchedulesDerived → step m = .next t → t.SchedulesDerived

/-- R250, R28, R31: reset is the only thing that clears OV, an SV bit, FCAUSE or FINFO (FCAUSE and FINFO of a state that meets
the invariant, where FCAUSE not 0 means Faulted). -/
def Obligations.OnlyResetClears : Prop :=
  ∀ m t : State, step m = .next t → ¬ m.ResetNext →
    (m.ov = true → t.ov = true) ∧ (∀ s, m.sv s = true → t.sv s = true) ∧
    (m.Inv → m.fcause ≠ 0#8 → t.fcause = m.fcause ∧ t.finfo = m.finfo)

/-- R59(c), R250: with no transaction to perform the engine waits and nothing changes. -/
def Obligations.NothingChangesBetweenTransactions : Prop :=
  ∀ m : State, m.script = [] → step m = .next m

/-- R23 to R26, R28 to R32, R59: a step that is not a reset changes KM, IBUF or BLEN only when it is a host write to that
register, and OBUF, TKS, SCHST, STATUS, FCAUSE or FINFO only when it is a write to CMD. -/
def Obligations.RegistersChangeOnlyByTheirWriters : Prop :=
  ∀ (m t : State) (op : HostOp) (rest : List HostOp), m.script = op :: rest → step m = .next t →
    op ≠ .reset →
    (m.km ≠ t.km → ∃ i : Fin 24, ∃ v, op = .write i.val v ∨ op = .writeBack i.val) ∧
    (m.ibuf ≠ t.ibuf → ∃ i : Fin 8, ∃ v, op = .write (0x020 + i.val) v ∨ op = .writeBack (0x020 + i.val)) ∧
    (m.blen ≠ t.blen → ∃ v, op = .write 0x030 v ∨ op = .writeBack 0x030) ∧
    (m.obuf ≠ t.obuf ∨ m.tks ≠ t.tks ∨ m.schst ≠ t.schst ∨ m.status ≠ t.status ∨ m.fcause ≠ t.fcause ∨
        m.finfo ≠ t.finfo →
      ∃ v, op = .write 0x031 v ∨ op = .writeBack 0x031)
end

