-- ==== Sys2Proof/Laws/BitField.lean ====
section
/-! SUPPORT. What each bit-vector operation does, position by position (00_scope.md R12; 40_bitfield_permutation.md R100 to
R104), and that the device's own parameters are well formed (R117). -/

namespace Sys2Proof

/-- A table set made well formed is well formed. -/
theorem Tables.orIdentity_wf (t : Tables) : t.orIdentity.WF := by
  unfold Tables.orIdentity
  split
  · assumption
  · decide +kernel

/-- A well-formed table set is left as it is. -/
theorem Tables.orIdentity_of_wf {t : Tables} (h : t.WF) : t.orIdentity = t := if_pos h

/-- R117 holds of the tables the machine runs on. -/
theorem Config.tables_wf : Config.tables.WF := Tables.orIdentity_wf _

/-- R117 holds of the parameters the machine runs on. -/
theorem Config.params_wf : Config.params.WF := by
  refine ⟨Config.tables_wf, fun i => ?_⟩
  have h : (Config.formatKeyChars[i] : BitVec 7).toNat < 128 := (Config.formatKeyChars[i]).isLt
  simp only [Config.params, Config.formatKey, Fin.getElem_fin, Vector.getElem_map, BitVec.lt_def,
    BitVec.toNat_setWidth, BitVec.toNat_ofNat]
  simp only [Fin.getElem_fin] at h
  omega

namespace Machine

/-! ### Positions -/

@[simp] theorem getMsbD_ofPos (f : Nat → Bool) (n p : Nat) :
    (ofPos f n).getMsbD p = (decide (p < n) && f p) := by
  induction n with
  | zero => simp [ofPos]
  | succ n ih =>
    rw [ofPos, BitVec.getMsbD_concat, ih]
    by_cases below : p < n
    · simp [below, Nat.lt_succ_of_lt below]
    · by_cases last : p = n
      · simp [last]
      · have : ¬ p < n + 1 := by omega
        simp [below, last, this]

/-- A bit vector is its positions. -/
theorem ofPos_getMsbD {n : Nat} (v : BitVec n) : ofPos v.getMsbD n = v :=
  BitVec.eq_of_getMsbD_eq fun p hp => by simp [hp]

theorem ofPos_congr {f g : Nat → Bool} {n : Nat} (h : ∀ p < n, f p = g p) : ofPos f n = ofPos g n :=
  BitVec.eq_of_getMsbD_eq fun p hp => by simp [hp, h p hp]

@[simp] theorem getMsbD_slice {n : Nat} (v : BitVec n) (a len p : Nat) :
    (slice v a len).getMsbD p = (decide (p < len) && v.getMsbD (a + p)) := by
  simp [slice]

/-- Slices of a concatenation at the seam. -/
theorem slice_append_left {n k : Nat} (v : BitVec n) (w : BitVec k) : slice (v ++ w) 0 n = v :=
  BitVec.eq_of_getMsbD_eq fun p hp => by
    simp only [getMsbD_slice, hp, decide_true, Bool.true_and, Nat.zero_add, BitVec.getMsbD_append]
    rw [if_neg (by omega)]

theorem slice_append_right {n k : Nat} (v : BitVec n) (w : BitVec k) : slice (v ++ w) n k = w :=
  BitVec.eq_of_getMsbD_eq fun p hp => by
    simp only [getMsbD_slice, hp, decide_true, Bool.true_and, BitVec.getMsbD_append]
    rw [if_pos (by omega), Nat.add_sub_cancel_left]

/-- Two adjacent slices make the whole. -/
theorem append_slices {n k : Nat} (v : BitVec (n + k)) : slice v 0 n ++ slice v n k = v :=
  BitVec.eq_of_getMsbD_eq fun p hp => by
    simp only [BitVec.getMsbD_append, getMsbD_slice]
    split
    · rename_i h
      have : n + (p - n) = p := by omega
      simp [this]; omega
    · simp; omega

/-! ### Bytes and bits -/

theorem byteAt_of_lt {n i : Nat} (bytes : Vector Byte n) (h : i < n) : byteAt bytes i = bytes[i] := by
  simp [byteAt, h]

/-- `getBit` reads position `p mod 8` of byte `p div 8` (R100, R11(a)). -/
theorem getBit_eq_getMsbD {n : Nat} (bytes : Vector Byte n) (p : Nat) :
    getBit bytes p = (byteAt bytes (p / 8)).getMsbD (p % 8) := by
  have : p % 8 < 8 := Nat.mod_lt _ (by decide)
  rw [getBit, BitVec.getMsbD_eq_getLsbD]
  simp [this]

@[simp] theorem getMsbD_bitsOf {n : Nat} (w : Nat) (bytes : Vector Byte n) (p : Nat) :
    (bitsOf w bytes).getMsbD p = (decide (p < w) && getBit bytes p) := by
  simp [bitsOf]

theorem getElem_bytesOf {w n : Nat} (v : BitVec w) (b : Nat) (h : b < n) :
    (bytesOf n v)[b] = slice v (8 * b) 8 := by
  simp [bytesOf]

/-- `bytesOf` undoes `bitsOf` (R12). -/
theorem bytesOf_bitsOf {n : Nat} (w : Nat) (hw : w = 8 * n) (bytes : Vector Byte n) :
    bytesOf n (bitsOf w bytes) = bytes := by
  refine Vector.ext fun b hb => BitVec.eq_of_getMsbD_eq fun p hp => ?_
  have d : (8 * b + p) / 8 = b := by omega
  have r : (8 * b + p) % 8 = p := by omega
  have inRange : 8 * b + p < w := by omega
  rw [getElem_bytesOf, getMsbD_slice, getMsbD_bitsOf, getBit_eq_getMsbD, d, r, byteAt_of_lt _ hb]
  simp [hp, inRange]

/-- `bitsOf` undoes `bytesOf` (R12). -/
theorem bitsOf_bytesOf {w : Nat} (n : Nat) (hw : w = 8 * n) (v : BitVec w) : bitsOf w (bytesOf n v) = v := by
  refine BitVec.eq_of_getMsbD_eq fun p hp => ?_
  have hb : p / 8 < n := by omega
  have hm : p % 8 < 8 := Nat.mod_lt _ (by decide)
  have e : 8 * (p / 8) + p % 8 = p := by omega
  rw [getMsbD_bitsOf, getBit_eq_getMsbD, byteAt_of_lt _ hb, getElem_bytesOf, getMsbD_slice, e]
  simp [hp, hm]

/-! ### The permutation network -/

/-- `Permute(T, v)[i] = v[T[i]]` (R103). -/
theorem getMsbD_permute {m n : Nat} (table : Vector (Fin m) n) (v : BitVec m) (i : Nat) (h : i < n) :
    (permute table v).getMsbD i = v.getMsbD table[i] := by
  simp [permute, h]

/-- The entry of `Inverse(T)` at `T[i]` is `i`, for a `T` without repeats (R104). -/
theorem inverse_at {n : Nat} (table : Vector (Fin n) n) (nodup : table.toList.Nodup) (i : Nat) (h : i < n) :
    (inverse table)[table[i]] = ⟨i, h⟩ := by
  have len : i < table.toList.length := by simpa using h
  have at_i : table.toList[i] = table[i] := by simp
  have idx : table.toList.idxOf table[i] = i := by rw [← at_i]; exact nodup.idxOf_getElem i len
  simp only [Fin.getElem_fin, inverse, Vector.getElem_ofFn]
  simp [idx, h]

/-- A table of `n` entries in `0..n-1` without repeats has every value. -/
theorem exists_entry {n : Nat} (table : Vector (Fin n) n) (nodup : table.toList.Nodup) (p : Fin n) :
    ∃ i, ∃ h : i < n, table[i] = p := by
  have inj : Function.Injective fun i : Fin n => table[i] := by
    intro i j eq
    have := (List.Nodup.getElem_inj_iff nodup (i := i.val) (j := j.val)
      (hi := by simp) (hj := by simp)).mp (by simpa using eq)
    exact Fin.ext this
  obtain ⟨i, hi⟩ := Finite.injective_iff_surjective.mp inj p
  exact ⟨i.val, i.isLt, by simpa using hi⟩

end Machine

end Sys2Proof
end

