-- ==== Sys2Proof/Laws/KeySchedule.lean ====
section
/-! SUPPORT. What the rotation walk stores (41_key_schedule.md R130, R132), said once for every index and direction. -/

namespace Sys2Proof.Machine

/-- Two rotations of the halves are one (R132: "The rotations accumulate"). -/
theorem KeyHalves.rotate_rotate (h : KeyHalves) (a b : Nat) : (h.rotate a).rotate b = h.rotate (a + b) := by
  have turn {w : Nat} (x : BitVec w) : (x.rotateLeft a).rotateLeft b = x.rotateLeft (a + b) := by
    refine BitVec.eq_of_getMsbD_eq fun p hp => ?_
    have : (b + p) % w < w := Nat.mod_lt _ (by omega)
    simp [BitVec.getMsbD_rotateLeft, hp, this, ← Nat.add_assoc]
  simp only [KeyHalves.rotate, turn]

/-- How far the halves have been rotated when the subkey of walk step `i` is taken: the sum of T_ROT[0..i]. -/
def turnedBy (i : Nat) : Nat := (tRot.toList.take (i + 1)).sum

/-- The subkey of walk step `i` is the compression of the initial halves rotated by the sum of T_ROT[0..i], stored at
`i` for ENC and `15 - i` for DEC (R132). -/
theorem keySchedule_storeIndex (t : Tables) (key : Block) (dir : Dir) (i : Fin 16) :
    (keySchedule t key dir)[storeIndex dir i] = compress t ((splitKey t key).rotate (turnedBy i)) := by
  fin_cases i <;> cases dir <;>
    simp [keySchedule, List.finRange, List.ofFn, Fin.foldr, Fin.foldr.loop, walkStep, storeIndex, tRot, turnedBy,
      KeyHalves.rotate_rotate]

/-- A store index is its own inverse, so every index is one. -/
theorem storeIndex_storeIndex (dir : Dir) (i : Fin 16) : storeIndex dir (storeIndex dir i) = i := by
  cases dir
  · rfl
  · simp only [storeIndex]; ext; simp only; omega

/-- The subkey at index `r` of a schedule. -/
theorem keySchedule_getElem (t : Tables) (key : Block) (dir : Dir) (r : Fin 16) :
    (keySchedule t key dir)[r] = compress t ((splitKey t key).rotate (turnedBy (storeIndex dir r))) := by
  have stored := keySchedule_storeIndex t key dir (storeIndex dir r)
  simpa only [storeIndex_storeIndex] using stored

end Sys2Proof.Machine
end

