-- ==== Sys2Proof/Laws/Cipher.lean ====
section
/-! SUPPORT. One lemma per operation of the round function and the block cipher (42_round_function.md, 43_block_cipher.md): what
a group and its table entry are as numbers, how the outputs concatenate, and what one more round does. -/

namespace Sys2Proof.Machine

/-! ### The round function -/

/-- Group `j` as a number: bits `6j..6j+5` of the mixed value (R152). -/
theorem group_toNat (y : BitVec 48) (j : Fin 8) : (group y j).toNat = (y.toNat >>> (42 - 6 * j.val)) % 64 := by
  have extracted : group y j = y.extractLsb' (42 - 6 * j.val) 6 := by
    refine BitVec.eq_of_getMsbD_eq fun p hp => ?_
    have place : 48 - (42 - 6 * j.val + 6 - p) = 6 * j.val + p := by omega
    rw [group, getMsbD_slice, BitVec.getMsbD_extractLsb', place]
    simp [hp]
    omega
  rw [extracted]
  simp [BitVec.extractLsb'_toNat]

/-- The entry index of a group, from its number (R153): `(v & 0x20) | ((v & 1) << 4) | ((v >> 1) & 15)`. -/
theorem sboxIndex_eq (g : BitVec 6) : 16 * sboxRow g + sboxCol g =
    ((g.toNat &&& 0x20) ||| ((g.toNat &&& 1) <<< 4) ||| ((g.toNat >>> 1) &&& 15)) := by
  revert g; decide +kernel

/-- A 4-bit output joined on the right is one more hexadecimal digit (R154). -/
theorem toNat_append_digit {w : Nat} (x : BitVec w) (y : BitVec 4) : (x ++ y).toNat = x.toNat * 16 + y.toNat := by
  rw [BitVec.toNat_append, ← Nat.shiftLeft_add_eq_or_of_lt y.isLt, Nat.shiftLeft_eq]

/-- Eight digits, the first most significant, in any base. -/
theorem sum_of_digits (base : Nat) (f : Fin 8 → Nat) :
    ((List.finRange 8).map fun j => f j * base ^ (7 - j.val)).sum =
      ((((((f 0 * base + f 1) * base + f 2) * base + f 3) * base + f 4) * base + f 5) * base + f 6) * base + f 7 := by
  rw [show List.finRange 8 = [0, 1, 2, 3, 4, 5, 6, 7] by decide]
  simp
  ring

/-! ### The block cipher -/

/-- No round leaves the halves as they are. -/
@[simp] theorem halvesAfter_zero (t : Tables) (ks : KeySchedule) (h : Halves) : halvesAfter t ks h 0 = h := by
  simp [halvesAfter]

/-- One more swapping round uses the next subkey (R172). -/
theorem halvesAfter_succ (t : Tables) (ks : KeySchedule) (h : Halves) (n : Nat) (hn : n < 16) :
    halvesAfter t ks h (n + 1) = swapRound t (halvesAfter t ks h n) ks[n] := by
  simp only [halvesAfter]
  rw [List.take_succ_eq_append_getElem (by simp; omega), List.foldl_append]
  simp

/-- The initial permutation undoes the final one (R173, R104). -/
theorem initialHalves_finalBlock (t : Tables) (wf : t.WF) (h : Halves) : initialHalves t (finalBlock t h) = h := by
  have undone (v : BitVec 64) : permute t.ip (permute (inverse t.ip) v) = v := by
    refine BitVec.eq_of_getMsbD_eq fun p hp => ?_
    have entry := inverse_at t.ip wf.1 p hp
    simp only [Fin.getElem_fin] at entry
    rw [getMsbD_permute _ _ _ hp, getMsbD_permute _ _ _ (Fin.isLt _)]
    simp [entry]
  simp only [initialHalves, finalBlock]
  rw [bitsOf_bytesOf 8 rfl, undone, slice_append_left, slice_append_right]

end Sys2Proof.Machine
end

