-- ==== Sys2Proof/Laws/State.lean ====
section
/-! SUPPORT. One lemma per field per update of State, each true by rfl, so that no later proof unfolds a record update. -/

namespace Sys2Proof.Machine

variable (m : State)

/-! ### answer -/

@[simp] theorem answer_km (v : Byte) : (m.answer v).km = m.km := rfl
@[simp] theorem answer_ibuf (v : Byte) : (m.answer v).ibuf = m.ibuf := rfl
@[simp] theorem answer_obuf (v : Byte) : (m.answer v).obuf = m.obuf := rfl
@[simp] theorem answer_blen (v : Byte) : (m.answer v).blen = m.blen := rfl
@[simp] theorem answer_status (v : Byte) : (m.answer v).status = m.status := rfl
@[simp] theorem answer_fcause (v : Byte) : (m.answer v).fcause = m.fcause := rfl
@[simp] theorem answer_finfo (v : Byte) : (m.answer v).finfo = m.finfo := rfl
@[simp] theorem answer_schst (v : Byte) : (m.answer v).schst = m.schst := rfl
@[simp] theorem answer_tks (v : Byte) : (m.answer v).tks = m.tks := rfl
@[simp] theorem answer_ibufWritten (v : Byte) : (m.answer v).ibufWritten = m.ibufWritten := rfl
@[simp] theorem answer_draws (v : Byte) : (m.answer v).draws = m.draws := rfl
@[simp] theorem answer_script (v : Byte) : (m.answer v).script = m.script := rfl
@[simp] theorem answer_reads (v : Byte) : (m.answer v).reads = m.reads ++ [v] := rfl

/-! ### takeDraws -/

@[simp] theorem takeDraws_km (n : Nat) : (m.takeDraws n).km = m.km := rfl
@[simp] theorem takeDraws_ibuf (n : Nat) : (m.takeDraws n).ibuf = m.ibuf := rfl
@[simp] theorem takeDraws_obuf (n : Nat) : (m.takeDraws n).obuf = m.obuf := rfl
@[simp] theorem takeDraws_blen (n : Nat) : (m.takeDraws n).blen = m.blen := rfl
@[simp] theorem takeDraws_status (n : Nat) : (m.takeDraws n).status = m.status := rfl
@[simp] theorem takeDraws_fcause (n : Nat) : (m.takeDraws n).fcause = m.fcause := rfl
@[simp] theorem takeDraws_finfo (n : Nat) : (m.takeDraws n).finfo = m.finfo := rfl
@[simp] theorem takeDraws_schst (n : Nat) : (m.takeDraws n).schst = m.schst := rfl
@[simp] theorem takeDraws_tks (n : Nat) : (m.takeDraws n).tks = m.tks := rfl
@[simp] theorem takeDraws_ibufWritten (n : Nat) : (m.takeDraws n).ibufWritten = m.ibufWritten := rfl
@[simp] theorem takeDraws_draws (n : Nat) : (m.takeDraws n).draws = m.draws + n := rfl
@[simp] theorem takeDraws_script (n : Nat) : (m.takeDraws n).script = m.script := rfl
@[simp] theorem takeDraws_reads (n : Nat) : (m.takeDraws n).reads = m.reads := rfl

/-! ### setKm -/

@[simp] theorem setKm_km (i : Fin 24) (v : Byte) : (m.setKm i v).km = m.km.set i v := rfl
@[simp] theorem setKm_ibuf (i : Fin 24) (v : Byte) : (m.setKm i v).ibuf = m.ibuf := rfl
@[simp] theorem setKm_obuf (i : Fin 24) (v : Byte) : (m.setKm i v).obuf = m.obuf := rfl
@[simp] theorem setKm_blen (i : Fin 24) (v : Byte) : (m.setKm i v).blen = m.blen := rfl
@[simp] theorem setKm_status (i : Fin 24) (v : Byte) : (m.setKm i v).status = m.status := rfl
@[simp] theorem setKm_fcause (i : Fin 24) (v : Byte) : (m.setKm i v).fcause = m.fcause := rfl
@[simp] theorem setKm_finfo (i : Fin 24) (v : Byte) : (m.setKm i v).finfo = m.finfo := rfl
@[simp] theorem setKm_schst (i : Fin 24) (v : Byte) : (m.setKm i v).schst = m.schst := rfl
@[simp] theorem setKm_tks (i : Fin 24) (v : Byte) : (m.setKm i v).tks = m.tks := rfl
@[simp] theorem setKm_ibufWritten (i : Fin 24) (v : Byte) : (m.setKm i v).ibufWritten = m.ibufWritten := rfl
@[simp] theorem setKm_draws (i : Fin 24) (v : Byte) : (m.setKm i v).draws = m.draws := rfl
@[simp] theorem setKm_script (i : Fin 24) (v : Byte) : (m.setKm i v).script = m.script := rfl
@[simp] theorem setKm_reads (i : Fin 24) (v : Byte) : (m.setKm i v).reads = m.reads := rfl

/-! ### setIbuf -/

@[simp] theorem setIbuf_km (i : Fin 8) (v : Byte) : (m.setIbuf i v).km = m.km := rfl
@[simp] theorem setIbuf_ibuf (i : Fin 8) (v : Byte) : (m.setIbuf i v).ibuf = m.ibuf.set i v := rfl
@[simp] theorem setIbuf_obuf (i : Fin 8) (v : Byte) : (m.setIbuf i v).obuf = m.obuf := rfl
@[simp] theorem setIbuf_blen (i : Fin 8) (v : Byte) : (m.setIbuf i v).blen = m.blen := rfl
@[simp] theorem setIbuf_status (i : Fin 8) (v : Byte) : (m.setIbuf i v).status = m.status := rfl
@[simp] theorem setIbuf_fcause (i : Fin 8) (v : Byte) : (m.setIbuf i v).fcause = m.fcause := rfl
@[simp] theorem setIbuf_finfo (i : Fin 8) (v : Byte) : (m.setIbuf i v).finfo = m.finfo := rfl
@[simp] theorem setIbuf_schst (i : Fin 8) (v : Byte) : (m.setIbuf i v).schst = m.schst := rfl
@[simp] theorem setIbuf_tks (i : Fin 8) (v : Byte) : (m.setIbuf i v).tks = m.tks := rfl
@[simp] theorem setIbuf_ibufWritten (i : Fin 8) (v : Byte) : (m.setIbuf i v).ibufWritten = m.ibufWritten.set i true := rfl
@[simp] theorem setIbuf_draws (i : Fin 8) (v : Byte) : (m.setIbuf i v).draws = m.draws := rfl
@[simp] theorem setIbuf_script (i : Fin 8) (v : Byte) : (m.setIbuf i v).script = m.script := rfl
@[simp] theorem setIbuf_reads (i : Fin 8) (v : Byte) : (m.setIbuf i v).reads = m.reads := rfl

/-! ### setBlen -/

@[simp] theorem setBlen_km (v : Byte) : (m.setBlen v).km = m.km := rfl
@[simp] theorem setBlen_ibuf (v : Byte) : (m.setBlen v).ibuf = m.ibuf := rfl
@[simp] theorem setBlen_obuf (v : Byte) : (m.setBlen v).obuf = m.obuf := rfl
@[simp] theorem setBlen_blen (v : Byte) : (m.setBlen v).blen = v := rfl
@[simp] theorem setBlen_status (v : Byte) : (m.setBlen v).status = m.status := rfl
@[simp] theorem setBlen_fcause (v : Byte) : (m.setBlen v).fcause = m.fcause := rfl
@[simp] theorem setBlen_finfo (v : Byte) : (m.setBlen v).finfo = m.finfo := rfl
@[simp] theorem setBlen_schst (v : Byte) : (m.setBlen v).schst = m.schst := rfl
@[simp] theorem setBlen_tks (v : Byte) : (m.setBlen v).tks = m.tks := rfl
@[simp] theorem setBlen_ibufWritten (v : Byte) : (m.setBlen v).ibufWritten = m.ibufWritten := rfl
@[simp] theorem setBlen_draws (v : Byte) : (m.setBlen v).draws = m.draws := rfl
@[simp] theorem setBlen_script (v : Byte) : (m.setBlen v).script = m.script := rfl
@[simp] theorem setBlen_reads (v : Byte) : (m.setBlen v).reads = m.reads := rfl

/-! ### storeSchedule -/

@[simp] theorem storeSchedule_km (s : Stage) (d : Dir) (ks : KeySchedule) : (m.storeSchedule s d ks).km = m.km := rfl
@[simp] theorem storeSchedule_ibuf (s : Stage) (d : Dir) (ks : KeySchedule) : (m.storeSchedule s d ks).ibuf = m.ibuf := rfl
@[simp] theorem storeSchedule_obuf (s : Stage) (d : Dir) (ks : KeySchedule) : (m.storeSchedule s d ks).obuf = m.obuf := rfl
@[simp] theorem storeSchedule_blen (s : Stage) (d : Dir) (ks : KeySchedule) : (m.storeSchedule s d ks).blen = m.blen := rfl
@[simp] theorem storeSchedule_status (s : Stage) (d : Dir) (ks : KeySchedule) : (m.storeSchedule s d ks).status = m.status := rfl
@[simp] theorem storeSchedule_fcause (s : Stage) (d : Dir) (ks : KeySchedule) : (m.storeSchedule s d ks).fcause = m.fcause := rfl
@[simp] theorem storeSchedule_finfo (s : Stage) (d : Dir) (ks : KeySchedule) : (m.storeSchedule s d ks).finfo = m.finfo := rfl
@[simp] theorem storeSchedule_schst (s : Stage) (d : Dir) (ks : KeySchedule) : (m.storeSchedule s d ks).schst = withBuilt s d m.schst := rfl
@[simp] theorem storeSchedule_tks (s : Stage) (d : Dir) (ks : KeySchedule) : (m.storeSchedule s d ks).tks = m.tks.set s ks := rfl
@[simp] theorem storeSchedule_ibufWritten (s : Stage) (d : Dir) (ks : KeySchedule) : (m.storeSchedule s d ks).ibufWritten = m.ibufWritten := rfl
@[simp] theorem storeSchedule_draws (s : Stage) (d : Dir) (ks : KeySchedule) : (m.storeSchedule s d ks).draws = m.draws := rfl
@[simp] theorem storeSchedule_script (s : Stage) (d : Dir) (ks : KeySchedule) : (m.storeSchedule s d ks).script = m.script := rfl
@[simp] theorem storeSchedule_reads (s : Stage) (d : Dir) (ks : KeySchedule) : (m.storeSchedule s d ks).reads = m.reads := rfl

/-! ### storeResult -/

@[simp] theorem storeResult_km (b : Block) : (m.storeResult b).km = m.km := rfl
@[simp] theorem storeResult_ibuf (b : Block) : (m.storeResult b).ibuf = m.ibuf := rfl
@[simp] theorem storeResult_obuf (b : Block) : (m.storeResult b).obuf = b := rfl
@[simp] theorem storeResult_blen (b : Block) : (m.storeResult b).blen = m.blen := rfl
@[simp] theorem storeResult_status (b : Block) : (m.storeResult b).status = withOv m.status := rfl
@[simp] theorem storeResult_fcause (b : Block) : (m.storeResult b).fcause = m.fcause := rfl
@[simp] theorem storeResult_finfo (b : Block) : (m.storeResult b).finfo = m.finfo := rfl
@[simp] theorem storeResult_schst (b : Block) : (m.storeResult b).schst = m.schst := rfl
@[simp] theorem storeResult_tks (b : Block) : (m.storeResult b).tks = m.tks := rfl
@[simp] theorem storeResult_ibufWritten (b : Block) : (m.storeResult b).ibufWritten = m.ibufWritten := rfl
@[simp] theorem storeResult_draws (b : Block) : (m.storeResult b).draws = m.draws := rfl
@[simp] theorem storeResult_script (b : Block) : (m.storeResult b).script = m.script := rfl
@[simp] theorem storeResult_reads (b : Block) : (m.storeResult b).reads = m.reads := rfl

/-! ### withScript -/

@[simp] theorem withScript_km (ops : List HostOp) : (m.withScript ops).km = m.km := rfl
@[simp] theorem withScript_ibuf (ops : List HostOp) : (m.withScript ops).ibuf = m.ibuf := rfl
@[simp] theorem withScript_obuf (ops : List HostOp) : (m.withScript ops).obuf = m.obuf := rfl
@[simp] theorem withScript_blen (ops : List HostOp) : (m.withScript ops).blen = m.blen := rfl
@[simp] theorem withScript_status (ops : List HostOp) : (m.withScript ops).status = m.status := rfl
@[simp] theorem withScript_fcause (ops : List HostOp) : (m.withScript ops).fcause = m.fcause := rfl
@[simp] theorem withScript_finfo (ops : List HostOp) : (m.withScript ops).finfo = m.finfo := rfl
@[simp] theorem withScript_schst (ops : List HostOp) : (m.withScript ops).schst = m.schst := rfl
@[simp] theorem withScript_tks (ops : List HostOp) : (m.withScript ops).tks = m.tks := rfl
@[simp] theorem withScript_ibufWritten (ops : List HostOp) : (m.withScript ops).ibufWritten = m.ibufWritten := rfl
@[simp] theorem withScript_draws (ops : List HostOp) : (m.withScript ops).draws = m.draws := rfl
@[simp] theorem withScript_script (ops : List HostOp) : (m.withScript ops).script = ops := rfl
@[simp] theorem withScript_reads (ops : List HostOp) : (m.withScript ops).reads = m.reads := rfl

/-! ### raise -/

@[simp] theorem raise_km (cause : FaultCause) (c : Byte) : (raise cause c m).km = m.km := rfl
@[simp] theorem raise_ibuf (cause : FaultCause) (c : Byte) : (raise cause c m).ibuf = m.ibuf := rfl
@[simp] theorem raise_obuf (cause : FaultCause) (c : Byte) : (raise cause c m).obuf = m.obuf := rfl
@[simp] theorem raise_blen (cause : FaultCause) (c : Byte) : (raise cause c m).blen = m.blen := rfl
@[simp] theorem raise_status (cause : FaultCause) (c : Byte) : (raise cause c m).status = withFlt m.status := rfl
@[simp] theorem raise_fcause (cause : FaultCause) (c : Byte) : (raise cause c m).fcause = cause.code := rfl
@[simp] theorem raise_finfo (cause : FaultCause) (c : Byte) : (raise cause c m).finfo = c := rfl
@[simp] theorem raise_schst (cause : FaultCause) (c : Byte) : (raise cause c m).schst = m.schst := rfl
@[simp] theorem raise_tks (cause : FaultCause) (c : Byte) : (raise cause c m).tks = m.tks := rfl
@[simp] theorem raise_ibufWritten (cause : FaultCause) (c : Byte) : (raise cause c m).ibufWritten = m.ibufWritten := rfl
@[simp] theorem raise_draws (cause : FaultCause) (c : Byte) : (raise cause c m).draws = m.draws := rfl
@[simp] theorem raise_script (cause : FaultCause) (c : Byte) : (raise cause c m).script = m.script := rfl
@[simp] theorem raise_reads (cause : FaultCause) (c : Byte) : (raise cause c m).reads = m.reads := rfl

/-! ### resetEngine -/

@[simp] theorem resetEngine_km (fk : KeyMaterial) : (resetEngine fk m).km = fk := rfl
@[simp] theorem resetEngine_ibuf (fk : KeyMaterial) : (resetEngine fk m).ibuf = Vector.replicate 8 0#8 := rfl
@[simp] theorem resetEngine_obuf (fk : KeyMaterial) : (resetEngine fk m).obuf = Vector.replicate 8 0#8 := rfl
@[simp] theorem resetEngine_blen (fk : KeyMaterial) : (resetEngine fk m).blen = 0x88#8 := rfl
@[simp] theorem resetEngine_status (fk : KeyMaterial) : (resetEngine fk m).status = 0x00#8 := rfl
@[simp] theorem resetEngine_fcause (fk : KeyMaterial) : (resetEngine fk m).fcause = 0x00#8 := rfl
@[simp] theorem resetEngine_finfo (fk : KeyMaterial) : (resetEngine fk m).finfo = 0x00#8 := rfl
@[simp] theorem resetEngine_schst (fk : KeyMaterial) : (resetEngine fk m).schst = 0x00#8 := rfl
@[simp] theorem resetEngine_tks (fk : KeyMaterial) : (resetEngine fk m).tks = Vector.replicate 3 (Vector.replicate 16 0#48) := rfl
@[simp] theorem resetEngine_ibufWritten (fk : KeyMaterial) : (resetEngine fk m).ibufWritten = Vector.replicate 8 false := rfl
@[simp] theorem resetEngine_draws (fk : KeyMaterial) : (resetEngine fk m).draws = m.draws := rfl
@[simp] theorem resetEngine_script (fk : KeyMaterial) : (resetEngine fk m).script = m.script := rfl
@[simp] theorem resetEngine_reads (fk : KeyMaterial) : (resetEngine fk m).reads = m.reads := rfl

/-! ### The flags after each update -/

@[simp] theorem answer_ov (v : Byte) : (m.answer v).ov = m.ov := by
  simp only [State.ov, answer_status]
@[simp] theorem answer_flt (v : Byte) : (m.answer v).flt = m.flt := by
  simp only [State.flt, answer_status]
@[simp] theorem answer_sv (v : Byte) (stage : Stage) : (m.answer v).sv stage = m.sv stage := by
  simp only [State.sv, answer_schst]
@[simp] theorem answer_sd (v : Byte) (stage : Stage) : (m.answer v).sd stage = m.sd stage := by
  simp only [State.sd, answer_schst]
@[simp] theorem answer_badLength (v : Byte) : (m.answer v).badLength = m.badLength := by
  simp only [State.badLength, State.ilen, State.olen, answer_blen]
@[simp] theorem takeDraws_ov (n : Nat) : (m.takeDraws n).ov = m.ov := by
  simp only [State.ov, takeDraws_status]
@[simp] theorem takeDraws_flt (n : Nat) : (m.takeDraws n).flt = m.flt := by
  simp only [State.flt, takeDraws_status]
@[simp] theorem takeDraws_sv (n : Nat) (stage : Stage) : (m.takeDraws n).sv stage = m.sv stage := by
  simp only [State.sv, takeDraws_schst]
@[simp] theorem takeDraws_sd (n : Nat) (stage : Stage) : (m.takeDraws n).sd stage = m.sd stage := by
  simp only [State.sd, takeDraws_schst]
@[simp] theorem takeDraws_badLength (n : Nat) : (m.takeDraws n).badLength = m.badLength := by
  simp only [State.badLength, State.ilen, State.olen, takeDraws_blen]
@[simp] theorem setKm_ov (i : Fin 24) (v : Byte) : (m.setKm i v).ov = m.ov := by
  simp only [State.ov, setKm_status]
@[simp] theorem setKm_flt (i : Fin 24) (v : Byte) : (m.setKm i v).flt = m.flt := by
  simp only [State.flt, setKm_status]
@[simp] theorem setKm_sv (i : Fin 24) (v : Byte) (stage : Stage) : (m.setKm i v).sv stage = m.sv stage := by
  simp only [State.sv, setKm_schst]
@[simp] theorem setKm_sd (i : Fin 24) (v : Byte) (stage : Stage) : (m.setKm i v).sd stage = m.sd stage := by
  simp only [State.sd, setKm_schst]
@[simp] theorem setKm_badLength (i : Fin 24) (v : Byte) : (m.setKm i v).badLength = m.badLength := by
  simp only [State.badLength, State.ilen, State.olen, setKm_blen]
@[simp] theorem setIbuf_ov (i : Fin 8) (v : Byte) : (m.setIbuf i v).ov = m.ov := by
  simp only [State.ov, setIbuf_status]
@[simp] theorem setIbuf_flt (i : Fin 8) (v : Byte) : (m.setIbuf i v).flt = m.flt := by
  simp only [State.flt, setIbuf_status]
@[simp] theorem setIbuf_sv (i : Fin 8) (v : Byte) (stage : Stage) : (m.setIbuf i v).sv stage = m.sv stage := by
  simp only [State.sv, setIbuf_schst]
@[simp] theorem setIbuf_sd (i : Fin 8) (v : Byte) (stage : Stage) : (m.setIbuf i v).sd stage = m.sd stage := by
  simp only [State.sd, setIbuf_schst]
@[simp] theorem setIbuf_badLength (i : Fin 8) (v : Byte) : (m.setIbuf i v).badLength = m.badLength := by
  simp only [State.badLength, State.ilen, State.olen, setIbuf_blen]
@[simp] theorem setBlen_ov (v : Byte) : (m.setBlen v).ov = m.ov := by
  simp only [State.ov, setBlen_status]
@[simp] theorem setBlen_flt (v : Byte) : (m.setBlen v).flt = m.flt := by
  simp only [State.flt, setBlen_status]
@[simp] theorem setBlen_sv (v : Byte) (stage : Stage) : (m.setBlen v).sv stage = m.sv stage := by
  simp only [State.sv, setBlen_schst]
@[simp] theorem setBlen_sd (v : Byte) (stage : Stage) : (m.setBlen v).sd stage = m.sd stage := by
  simp only [State.sd, setBlen_schst]
@[simp] theorem storeSchedule_ov (s : Stage) (d : Dir) (ks : KeySchedule) : (m.storeSchedule s d ks).ov = m.ov := by
  simp only [State.ov, storeSchedule_status]
@[simp] theorem storeSchedule_flt (s : Stage) (d : Dir) (ks : KeySchedule) : (m.storeSchedule s d ks).flt = m.flt := by
  simp only [State.flt, storeSchedule_status]
@[simp] theorem storeSchedule_badLength (s : Stage) (d : Dir) (ks : KeySchedule) : (m.storeSchedule s d ks).badLength = m.badLength := by
  simp only [State.badLength, State.ilen, State.olen, storeSchedule_blen]
@[simp] theorem storeResult_sv (b : Block) (stage : Stage) : (m.storeResult b).sv stage = m.sv stage := by
  simp only [State.sv, storeResult_schst]
@[simp] theorem storeResult_sd (b : Block) (stage : Stage) : (m.storeResult b).sd stage = m.sd stage := by
  simp only [State.sd, storeResult_schst]
@[simp] theorem storeResult_badLength (b : Block) : (m.storeResult b).badLength = m.badLength := by
  simp only [State.badLength, State.ilen, State.olen, storeResult_blen]
@[simp] theorem withScript_ov (ops : List HostOp) : (m.withScript ops).ov = m.ov := by
  simp only [State.ov, withScript_status]
@[simp] theorem withScript_flt (ops : List HostOp) : (m.withScript ops).flt = m.flt := by
  simp only [State.flt, withScript_status]
@[simp] theorem withScript_sv (ops : List HostOp) (stage : Stage) : (m.withScript ops).sv stage = m.sv stage := by
  simp only [State.sv, withScript_schst]
@[simp] theorem withScript_sd (ops : List HostOp) (stage : Stage) : (m.withScript ops).sd stage = m.sd stage := by
  simp only [State.sd, withScript_schst]
@[simp] theorem withScript_badLength (ops : List HostOp) : (m.withScript ops).badLength = m.badLength := by
  simp only [State.badLength, State.ilen, State.olen, withScript_blen]
@[simp] theorem raise_sv (cause : FaultCause) (c : Byte) (stage : Stage) : (raise cause c m).sv stage = m.sv stage := by
  simp only [State.sv, raise_schst]
@[simp] theorem raise_sd (cause : FaultCause) (c : Byte) (stage : Stage) : (raise cause c m).sd stage = m.sd stage := by
  simp only [State.sd, raise_schst]
@[simp] theorem raise_badLength (cause : FaultCause) (c : Byte) : (raise cause c m).badLength = m.badLength := by
  simp only [State.badLength, State.ilen, State.olen, raise_blen]

/-! ### Equal states -/

/-- Two states with equal fields are equal. -/
theorem State.eq_of_fields {m m' : State} (km : m.km = m'.km) (ibuf : m.ibuf = m'.ibuf) (obuf : m.obuf = m'.obuf)
    (blen : m.blen = m'.blen) (status : m.status = m'.status) (fcause : m.fcause = m'.fcause)
    (finfo : m.finfo = m'.finfo) (schst : m.schst = m'.schst) (tks : m.tks = m'.tks)
    (written : m.ibufWritten = m'.ibufWritten) (draws : m.draws = m'.draws) (script : m.script = m'.script)
    (reads : m.reads = m'.reads) : m = m' := by
  cases m; cases m'; simp_all

end Sys2Proof.Machine
end

