-- ==== Sys2Proof/Laws/Flags.lean ====
section
/-! SUPPORT. What each change of a status register does to each of its bits (10_state.md R26, R28, R31). -/

namespace Sys2Proof.Machine

/-! ### STATUS -/

theorem getLsbD_withOv (status : Byte) (i : Nat) :
    (withOv status).getLsbD i = (status.getLsbD i || decide (i = 0)) := by
  by_cases h : i < 8
  · interval_cases i <;> simp [withOv, bitAt]
  · have : i ≠ 0 := by omega
    simp [withOv, bitAt, this, BitVec.getLsbD_of_ge _ _ (by omega : 8 ≤ i)]

theorem getLsbD_withFlt (status : Byte) (i : Nat) :
    (withFlt status).getLsbD i = (status.getLsbD i || decide (i = 1)) := by
  by_cases h : i < 8
  · interval_cases i <;> simp [withFlt, bitAt]
  · have : i ≠ 1 := by omega
    simp [withFlt, bitAt, this, BitVec.getLsbD_of_ge _ _ (by omega : 8 ≤ i)]

@[simp] theorem storeResult_ov (m : State) (b : Block) : (m.storeResult b).ov = true := by
  rw [State.ov, storeResult_status, getLsbD_withOv]; simp

@[simp] theorem storeResult_flt (m : State) (b : Block) : (m.storeResult b).flt = m.flt := by
  rw [State.flt, storeResult_status, getLsbD_withOv]; simp [State.flt]

@[simp] theorem raise_flt (cause : FaultCause) (c : Byte) (m : State) : (raise cause c m).flt = true := by
  rw [State.flt, raise_status, getLsbD_withFlt]; simp

@[simp] theorem raise_ov (cause : FaultCause) (c : Byte) (m : State) : (raise cause c m).ov = m.ov := by
  rw [State.ov, raise_status, getLsbD_withFlt]; simp [State.ov]

/-- The reserved bits of STATUS stay as they are. -/
theorem withOv_reserved (status : Byte) : withOv status &&& 0xFC#8 = status &&& 0xFC#8 := by
  revert status; decide +kernel

theorem withFlt_reserved (status : Byte) : withFlt status &&& 0xFC#8 = status &&& 0xFC#8 := by
  revert status; decide +kernel

/-! ### SCHST -/

theorem withBuilt_valid (s : Stage) (d : Dir) (schst : Byte) (k : Stage) :
    (withBuilt s d schst).getLsbD k.val = (schst.getLsbD k.val || decide (k = s)) := by
  revert schst
  cases d <;> fin_cases s <;> fin_cases k <;> decide +kernel

theorem withBuilt_direction (s : Stage) (d : Dir) (schst : Byte) (k : Stage) :
    (withBuilt s d schst).getLsbD (4 + k.val) = if k = s then d == .dec else schst.getLsbD (4 + k.val) := by
  revert schst
  cases d <;> fin_cases s <;> fin_cases k <;> decide +kernel

/-- The reserved bits of SCHST stay as they are. -/
theorem withBuilt_reserved (s : Stage) (d : Dir) (schst : Byte) :
    withBuilt s d schst &&& 0x88#8 = schst &&& 0x88#8 := by
  revert schst
  cases d <;> fin_cases s <;> decide +kernel

@[simp] theorem storeSchedule_sv (m : State) (s : Stage) (d : Dir) (ks : KeySchedule) (k : Stage) :
    (m.storeSchedule s d ks).sv k = (m.sv k || decide (k = s)) :=
  withBuilt_valid s d m.schst k

@[simp] theorem storeSchedule_sd (m : State) (s : Stage) (d : Dir) (ks : KeySchedule) (k : Stage) :
    (m.storeSchedule s d ks).sd k = if k = s then d == .dec else m.sd k :=
  withBuilt_direction s d m.schst k

@[simp] theorem resetEngine_flt (fk : KeyMaterial) (m : State) : (resetEngine fk m).flt = false := by
  simp [State.flt]

@[simp] theorem resetEngine_ov (fk : KeyMaterial) (m : State) : (resetEngine fk m).ov = false := by
  simp [State.ov]

@[simp] theorem resetEngine_sv (fk : KeyMaterial) (m : State) (s : Stage) : (resetEngine fk m).sv s = false := by
  simp [State.sv]

@[simp] theorem resetEngine_sd (fk : KeyMaterial) (m : State) (s : Stage) : (resetEngine fk m).sd s = false := by
  simp [State.sd]

/-! ### BLEN -/

/-- `InvalidBlockLength` is raised for "every value but 0x88" (R221). -/
theorem badLength_eq_false_iff (m : State) : m.badLength = false ↔ m.blen = 0x88#8 := by
  have all : ∀ b : Byte,
      (((b.extractLsb' 0 4).toNat != 8 || (b.extractLsb' 4 4).toNat != 8) = false) ↔ b = 0x88#8 := by
    decide +kernel
  exact all m.blen

theorem badLength_eq_true_iff (m : State) : m.badLength = true ↔ m.blen ≠ 0x88#8 := by
  rw [ne_eq, ← badLength_eq_false_iff]
  simp

end Sys2Proof.Machine
end

