-- ==== Sys2Proof/Laws/Commands.lean ====
section
/-! SUPPORT. Everything a command can do (41_key_schedule.md R140, R141; 43_block_cipher.md R180; 44_triple_cipher.md R200,
R201), said once per command, as an equation over the named updates of State. -/

namespace Sys2Proof.Machine

/-! ### The state a build of all stages leaves (R141) -/

section
variable (t : Tables) (d : Dir) (m : State)

@[simp] theorem buildAll_km : (m.buildAll t d).km = m.km := rfl
@[simp] theorem buildAll_ibuf : (m.buildAll t d).ibuf = m.ibuf := rfl
@[simp] theorem buildAll_obuf : (m.buildAll t d).obuf = m.obuf := rfl
@[simp] theorem buildAll_blen : (m.buildAll t d).blen = m.blen := rfl
@[simp] theorem buildAll_status : (m.buildAll t d).status = m.status := rfl
@[simp] theorem buildAll_fcause : (m.buildAll t d).fcause = m.fcause := rfl
@[simp] theorem buildAll_finfo : (m.buildAll t d).finfo = m.finfo := rfl
@[simp] theorem buildAll_ibufWritten : (m.buildAll t d).ibufWritten = m.ibufWritten := rfl
@[simp] theorem buildAll_draws : (m.buildAll t d).draws = m.draws := rfl
@[simp] theorem buildAll_script : (m.buildAll t d).script = m.script := rfl
@[simp] theorem buildAll_reads : (m.buildAll t d).reads = m.reads := rfl
@[simp] theorem buildAll_ov : (m.buildAll t d).ov = m.ov := by
  simp only [State.ov, buildAll_status]
@[simp] theorem buildAll_flt : (m.buildAll t d).flt = m.flt := by
  simp only [State.flt, buildAll_status]
@[simp] theorem buildAll_badLength : (m.buildAll t d).badLength = m.badLength := by
  simp only [State.badLength, State.ilen, State.olen, buildAll_blen]
@[simp] theorem buildAll_inputBlock : (m.buildAll t d).inputBlock = m.inputBlock := by
  simp only [State.inputBlock, State.unwrittenBelow, buildAll_ibufWritten, buildAll_ibuf, buildAll_draws]
@[simp] theorem buildAll_inputDraws : (m.buildAll t d).inputDraws = m.inputDraws := by
  simp only [State.inputDraws, State.unwrittenBelow, buildAll_ibufWritten]

/-- `TKS <- TripleSchedule(KM, d)`: nothing of the old schedules is left. -/
@[simp] theorem buildAll_tks : (m.buildAll t d).tks = tripleSchedule t m.km d := by
  refine Vector.ext fun s hs => ?_
  have : s = 0 ∨ s = 1 ∨ s = 2 := by omega
  rcases this with rfl | rfl | rfl <;> simp [State.buildAll]

@[simp] theorem buildAll_sv (s : Stage) : (m.buildAll t d).sv s = true := by
  fin_cases s <;> simp [State.buildAll]

theorem buildAll_sd (s : Stage) :
    (m.buildAll t d).sd s = if s = 1 then d.opposite == .dec else d == .dec := by
  fin_cases s <;> simp [State.buildAll]

theorem buildAll_reserved : (m.buildAll t d).schst &&& 0x88#8 = m.schst &&& 0x88#8 := by
  simp [State.buildAll, withBuilt_reserved]

end

/-! ### The commands -/

theorem exec_ksb (s : Stage) (d : Dir) (m : State) :
    exec (.ksb s d) m = .next (m.storeSchedule s d (keySchedule Config.tables (stageKey m.km s) d)) := rfl

theorem exec_tksb (d : Dir) (m : State) : exec (.tksb d) m = .next (m.buildAll Config.tables d) := rfl

/-- A run command under bad lengths (R221, R224: checked before the schedules). -/
theorem exec_badLength {i : Instr} {m : State} (run : i.isRun = true)
    (bad : m.badLength = true) : exec i m = .next (raise .invalidBlockLength (encode i) m) := by
  cases i with
  | ksb s d => cases run
  | tksb d => cases run
  | bcr s => simp [exec, execBcr, bcrWith, bad]
  | tcr => simp [exec, execTcr, tcrWith, bad]
  | tcx d => simp [exec, execTcx, tcxWith, bad]

theorem exec_bcr_unbuilt {s : Stage} {m : State} (good : m.badLength = false) (unbuilt : m.sv s = false) :
    exec (.bcr s) m = .next (raise .scheduleNotBuilt (encode (.bcr s)) m) := by
  simp [exec, execBcr, bcrWith, good, unbuilt]

theorem exec_bcr_run {s : Stage} {m : State} (good : m.badLength = false) (built : m.sv s = true) :
    exec (.bcr s) m = .next ((m.takeDraws m.inputDraws).storeResult
      (blockCipher Config.tables m.inputBlock m.tks[s])) := by
  simp [exec, execBcr, bcrWith, good, built]

theorem exec_tcr_unbuilt {m : State} (good : m.badLength = false) (unbuilt : m.allBuilt = false) :
    exec .tcr m = .next (raise .scheduleNotBuilt (encode .tcr) m) := by
  simp [exec, execTcr, tcrWith, good, unbuilt]

theorem exec_tcr_run {m : State} (good : m.badLength = false) (built : m.allBuilt = true) :
    exec .tcr m = .next ((m.takeDraws m.inputDraws).storeResult (tripleRun Config.tables m.inputBlock m.tks)) := by
  simp [exec, execTcr, tcrWith, good, built]

theorem exec_tcx_run {d : Dir} {m : State} (good : m.badLength = false) :
    exec (.tcx d) m = .next (((m.buildAll Config.tables d).takeDraws m.inputDraws).storeResult
      (tripleCipher Config.tables m.inputBlock m.km d)) := by
  simp [exec, execTcx, tcxWith, good, tripleCipher]

/-- All three stages are built (R200). -/
theorem allBuilt_iff (m : State) : m.allBuilt = true ↔ ∀ s, m.sv s = true := by
  simp only [State.allBuilt, Bool.and_eq_true]
  constructor
  · rintro ⟨⟨a, b⟩, c⟩ s
    fin_cases s <;> assumption
  · intro h
    exact ⟨⟨h 0, h 1⟩, h 2⟩

/-- What a command can leave (R220: "before the command changes any state"): the entry of one fault with the command's own
byte, or its own effect. -/
theorem exec_next {i : Instr} {m t : State} (h : exec i m = .next t) :
    (i.isRun = true ∧ m.badLength = true ∧
        t = raise .invalidBlockLength (encode i) m) ∨
      (m.badLength = false ∧ ((∃ s, i = .bcr s ∧ m.sv s = false) ∨ (i = .tcr ∧ m.allBuilt = false)) ∧
        t = raise .scheduleNotBuilt (encode i) m) ∨
      (∃ s d, i = .ksb s d ∧ t = m.storeSchedule s d (keySchedule Config.tables (stageKey m.km s) d)) ∨
      (∃ d, i = .tksb d ∧ t = m.buildAll Config.tables d) ∨
      (m.badLength = false ∧ ∃ n block, t = (m.takeDraws n).storeResult block ∧
        ((∃ s, i = .bcr s ∧ m.sv s = true) ∨ i = .tcr)) ∨
      (m.badLength = false ∧ ∃ d n block, i = .tcx d ∧
        t = ((m.buildAll Config.tables d).takeDraws n).storeResult block) := by
  cases i with
  | ksb s d => rw [exec_ksb] at h; cases h; exact .inr (.inr (.inl ⟨s, d, rfl, rfl⟩))
  | tksb d => rw [exec_tksb] at h; cases h; exact .inr (.inr (.inr (.inl ⟨d, rfl, rfl⟩)))
  | bcr s =>
    cases bad : m.badLength with
    | true =>
      rw [exec_badLength rfl bad] at h
      cases h; exact .inl ⟨rfl, rfl, rfl⟩
    | false =>
      cases built : m.sv s with
      | false =>
        rw [exec_bcr_unbuilt bad built] at h
        cases h; exact .inr (.inl ⟨rfl, .inl ⟨s, rfl, built⟩, rfl⟩)
      | true =>
        rw [exec_bcr_run bad built] at h
        cases h; exact .inr (.inr (.inr (.inr (.inl ⟨rfl, _, _, rfl, .inl ⟨s, rfl, built⟩⟩))))
  | tcr =>
    cases bad : m.badLength with
    | true =>
      rw [exec_badLength rfl bad] at h
      cases h; exact .inl ⟨rfl, rfl, rfl⟩
    | false =>
      cases built : m.allBuilt with
      | false =>
        rw [exec_tcr_unbuilt bad built] at h
        cases h; exact .inr (.inl ⟨rfl, .inr ⟨rfl, rfl⟩, rfl⟩)
      | true =>
        rw [exec_tcr_run bad built] at h
        cases h; exact .inr (.inr (.inr (.inr (.inl ⟨rfl, _, _, rfl, .inr rfl⟩))))
  | tcx d =>
    cases bad : m.badLength with
    | true =>
      rw [exec_badLength rfl bad] at h
      cases h; exact .inl ⟨rfl, rfl, rfl⟩
    | false =>
      rw [exec_tcx_run bad] at h
      cases h; exact .inr (.inr (.inr (.inr (.inr ⟨rfl, d, _, _, rfl, rfl⟩))))

end Sys2Proof.Machine
end

