-- ==== Sys2Proof/Laws/Decode.lean ====
section
/-! SUPPORT. How the fields of a command byte decide its decoding (30_encoding.md R72). -/

namespace Sys2Proof

@[simp] theorem Dir.ofBit_toBit (d : Dir) : Dir.ofBit d.toBit = d := by cases d <;> rfl

@[simp] theorem Dir.toBit_ofBit (b : Bool) : (Dir.ofBit b).toBit = b := by cases b <;> rfl

/-- A decoded stage is its field (R71). -/
theorem decodeStage_ok {stg : Nat} {s : Stage} (h : decodeStage stg = .ok s) : s.val = stg := by
  unfold decodeStage at h
  split at h
  · cases h; rfl
  · cases h

end Sys2Proof
end

