-- ==== Sys2Proof/Laws/Frames.lean ====
section
/-! SUPPORT. The frame of each update, as the relations of Safety: which registers it leaves, and that the relations chain.
A proof that cites these does not compare two states field by field (which would compare cipher results). -/

namespace Sys2Proof.Machine

/-! ### The relations chain -/

theorem State.SameInputs.trans {a b c : State} (h : a.SameInputs b) (k : b.SameInputs c) : a.SameInputs c :=
  ⟨k.km.trans h.km, k.ibuf.trans h.ibuf, k.ibufWritten.trans h.ibufWritten, k.blen.trans h.blen,
    k.script.trans h.script, k.reads.trans h.reads⟩

theorem State.SameFault.trans {a b c : State} (h : a.SameFault b) (k : b.SameFault c) : a.SameFault c :=
  ⟨k.fcause.trans h.fcause, k.finfo.trans h.finfo, k.flt.trans h.flt⟩

theorem State.SameSchedules.trans {a b c : State} (h : a.SameSchedules b) (k : b.SameSchedules c) :
    a.SameSchedules c :=
  ⟨k.tks.trans h.tks, k.schst.trans h.schst⟩

theorem State.SameOutput.trans {a b c : State} (h : a.SameOutput b) (k : b.SameOutput c) : a.SameOutput c :=
  ⟨k.obuf.trans h.obuf, k.ov.trans h.ov, k.draws.trans h.draws⟩

section
variable (m : State)

/-! ### Building schedules -/

theorem storeSchedule_sameInputs (s : Stage) (d : Dir) (ks : KeySchedule) :
    m.SameInputs (m.storeSchedule s d ks) := ⟨rfl, rfl, rfl, rfl, rfl, rfl⟩

theorem storeSchedule_sameFault (s : Stage) (d : Dir) (ks : KeySchedule) :
    m.SameFault (m.storeSchedule s d ks) := ⟨rfl, rfl, rfl⟩

theorem storeSchedule_sameOutput (s : Stage) (d : Dir) (ks : KeySchedule) :
    m.SameOutput (m.storeSchedule s d ks) := ⟨rfl, rfl, rfl⟩

theorem buildAll_sameInputs (t : Tables) (d : Dir) : m.SameInputs (m.buildAll t d) :=
  ⟨rfl, rfl, rfl, rfl, rfl, rfl⟩

theorem buildAll_sameFault (t : Tables) (d : Dir) : m.SameFault (m.buildAll t d) := ⟨rfl, rfl, rfl⟩

theorem buildAll_sameOutput (t : Tables) (d : Dir) : m.SameOutput (m.buildAll t d) := ⟨rfl, rfl, rfl⟩

/-! ### Storing a result -/

theorem run_sameInputs (n : Nat) (b : Block) : m.SameInputs ((m.takeDraws n).storeResult b) :=
  ⟨rfl, rfl, rfl, rfl, rfl, rfl⟩

theorem run_sameFault (n : Nat) (b : Block) : m.SameFault ((m.takeDraws n).storeResult b) :=
  ⟨rfl, rfl, by simp⟩

theorem run_sameSchedules (n : Nat) (b : Block) : m.SameSchedules ((m.takeDraws n).storeResult b) := ⟨rfl, rfl⟩

/-! ### Fault entry (R226) -/

/-- Fault entry writes FCAUSE, FINFO and STATUS.FLT and "nothing else changes". -/
theorem raise_faultEntered (cause : FaultCause) (c : Byte) : m.FaultEntered cause.code c (raise cause c m) :=
  ⟨rfl, rfl, rfl, ⟨rfl, rfl, rfl, rfl, rfl, rfl⟩, ⟨rfl, rfl⟩, ⟨rfl, by simp, rfl⟩⟩

end

/-! ### The input block -/

/-- Where all of IBUF has been written, a run command reads it as it stands and takes no draw (R24, R52). -/
theorem inputBlock_of_written {m : State} (h : ∀ i : Fin 8, m.ibufWritten[i] = true) :
    m.inputBlock = m.ibuf ∧ m.inputDraws = 0 := by
  constructor
  · refine Vector.ext fun i hi => ?_
    have written := h ⟨i, hi⟩
    simp only [Fin.getElem_fin] at written
    simp [State.inputBlock, written]
  · simp only [State.inputDraws, State.unwrittenBelow, List.count_eq_zero]
    intro missing
    obtain ⟨i, hi, e⟩ := List.mem_iff_getElem.mp (List.mem_of_mem_take missing)
    have written := h ⟨i, by simpa using hi⟩
    simp only [Fin.getElem_fin] at written
    simp [written] at e

end Sys2Proof.Machine
end

