-- ==== Sys2Proof/Machine/Parametric.lean ====
section
/-! DEFINITION. The same machine on any parameters of R9 ("A model must take the tables as arguments", R6): the commands and
the step with the tables and FORMAT_KEY as arguments. `exec` and `step` are these on `Config.params`
(Laws/Parametric.lean). -/

namespace Sys2Proof.Machine

/-- The effect of one command on the tables `t`. -/
def execWith (t : Tables) (i : Instr) (m : State) : Outcome :=
  match i with
  | .ksb s d => ksbWith t s d m
  | .tksb d => tksbWith t d m
  | .bcr s => bcrWith t s m
  | .tcr => tcrWith t m
  | .tcx d => tcxWith t d m

/-- One step of a device with the parameters `p`. -/
def stepWith (p : Params) (m : State) : Outcome := nextTransaction p.formatKey (execWith p.tables) m

/-- `k` steps of a device with the parameters `p`, stopping at the first refusal. -/
def runWith (p : Params) : Nat → State → Outcome
  | 0, m => .next m
  | k + 1, m =>
    match stepWith p m with
    | .next m' => runWith p k m'
    | .fault r => .fault r
    | .refused r => .refused r

end Sys2Proof.Machine
end

