-- ==== Sys2Proof/Laws/Parametric.lean ====
section
/-! SUPPORT. The machine is the parametric one on the device's own parameters (00_scope.md R6, R9). -/

namespace Sys2Proof.Machine

/-- Each arm of `exec` is its command on the device's tables. -/
theorem exec_eq_execWith : exec = execWith Config.tables := by
  funext i m
  cases i <;> rfl

/-- A step is the parametric step on the device's parameters. -/
theorem step_eq_stepWith : step = stepWith Config.params := by
  funext m
  rw [step, exec_eq_execWith]
  rfl

end Sys2Proof.Machine
end

