-- ==== Sys2Proof/Laws/PerInstr.lean ====
section
/-! SUPPORT. A law of each command as syntax: its byte is selected by its own row of the opcode map and by no other
(30_encoding.md R73). -/

namespace Sys2Proof.Laws.OwnRow

/-- The command's byte selects the command's row, and among the five rows that one alone (R73). -/
def Statement (i : Instr) : Prop :=
  i.row.selects (encode i) = true ∧ ∀ row ∈ opcodeRows, row.selects (encode i) = true → row = i.row

theorem ksb (s : Stage) (d : Dir) : Statement (.ksb s d) := by
  fin_cases s <;> cases d <;> exact ⟨by decide, by decide⟩

theorem tksb (d : Dir) : Statement (.tksb d) := by
  cases d <;> exact ⟨by decide, by decide⟩

theorem bcr (s : Stage) : Statement (.bcr s) := by
  fin_cases s <;> exact ⟨by decide, by decide⟩

theorem tcr : Statement .tcr := ⟨by decide, by decide⟩

theorem tcx (d : Dir) : Statement (.tcx d) := by
  cases d <;> exact ⟨by decide, by decide⟩

end Sys2Proof.Laws.OwnRow
end

