-- ==== Sys2Proof/Laws/Transact.lean ====
section
/-! SUPPORT. Everything a host transaction can do (20_memory.md R52, R53, R58), said once: if it answers next, then one of the
listed cases holds. -/

namespace Sys2Proof.Machine

/-- A read that is answered (R52). -/
theorem hostRead_next {off : Nat} {m t : State} (h : hostRead off m = .next t) :
    off ≤ lastOffset ∧ ∃ reg, regAt off = some reg ∧
      ((∃ v, m.readReg reg = .value v ∧ t = m.answer v) ∨
        (m.readReg reg = .draw ∧ t = (m.takeDraws 1).answer (Config.draw m.draws))) := by
  unfold hostRead at h
  split at h
  · cases h
  · refine ⟨by omega, ?_⟩
    split at h
    · cases h
    · rename_i reg found
      refine ⟨reg, found, ?_⟩
      split at h
      · rename_i v value
        cases h; exact .inl ⟨v, value, rfl⟩
      · rename_i value
        cases h; exact .inr ⟨value, rfl⟩
      · cases h

/-- A command byte executed (R72). -/
theorem executeCommand_next {run : Instr → State → Outcome} {c : Byte} {m t : State}
    (h : executeCommand run c m = .next t) :
    (∃ i, decode c = .ok i ∧ run i m = .next t) ∨
      (∃ why, decode c = .error why ∧ t = raise .illegalCommand c m) := by
  unfold executeCommand at h
  split at h
  · rename_i i found
    exact .inl ⟨i, found, h⟩
  · rename_i why found
    cases h; exact .inr ⟨why, found, rfl⟩

/-- A write that is answered (R53): ignored, stored in KM, IBUF or BLEN, or a command. -/
theorem hostWrite_next {run : Instr → State → Outcome} {off : Nat} {v : Byte} {m t : State}
    (h : hostWrite run off v m = .next t) :
    off ≤ lastOffset ∧
      ((m.flt = true ∧ t = m) ∨
        (m.flt = false ∧
          ((∃ i, regAt off = some (.km i) ∧ t = m.setKm i v) ∨
            (∃ i, regAt off = some (.ibuf i) ∧ t = m.setIbuf i v) ∨
            (regAt off = some .blen ∧ t = m.setBlen v) ∨
            (regAt off = some .cmd ∧ executeCommand run v m = .next t)))) := by
  unfold hostWrite at h
  split at h
  · cases h
  · refine ⟨by omega, ?_⟩
    split at h
    · rename_i faulted
      cases h; exact .inl ⟨faulted, rfl⟩
    · rename_i notFaulted
      refine .inr ⟨by simpa using notFaulted, ?_⟩
      split at h
      · cases h
      · rename_i i found
        cases h; exact .inl ⟨i, found, rfl⟩
      · rename_i i found
        cases h; exact .inr (.inl ⟨i, found, rfl⟩)
      · rename_i found
        cases h; exact .inr (.inr (.inl ⟨found, rfl⟩))
      · rename_i found
        exact .inr (.inr (.inr ⟨found, h⟩))
      all_goals cases h

/-- A transaction that is answered (R262). -/
theorem transact_next {fk : KeyMaterial} {run : Instr → State → Outcome} {op : HostOp} {m t : State}
    (h : transact fk run op m = .next t) :
    (∃ off, op = .read off ∧ hostRead off m = .next t) ∨
      (∃ off v, (op = .write off v ∨ (op = .writeBack off ∧ m.reads.getLast? = some v)) ∧
        hostWrite run off v m = .next t) ∨
      (op = .reset ∧ t = resetEngine fk m) := by
  cases op with
  | read off => exact .inl ⟨off, rfl, h⟩
  | write off v => exact .inr (.inl ⟨off, v, .inl rfl, h⟩)
  | writeBack off =>
    cases last : m.reads.getLast? with
    | none => simp only [transact, last] at h; cases h
    | some v => exact .inr (.inl ⟨off, v, .inr ⟨rfl, rfl⟩, by simpa only [transact, last] using h⟩)
  | reset => cases h; exact .inr (.inr ⟨rfl, rfl⟩)
  | wideRead off extra => cases h
  | wideWrite off v0 v1 more => cases h

/-! ### The address map (R51) -/

/-- The register found at an offset has that offset. -/
theorem offset_of_regAt {off : Nat} {reg : Reg} (h : regAt off = some reg) : reg.offset = off := by
  unfold regAt at h
  by_cases c0 : off < 0x018
  · rw [dif_pos c0] at h
    cases h; simp only [Reg.offset]
  rw [dif_neg c0] at h
  by_cases c1 : off < 0x020
  · rw [if_pos c1] at h
    cases h
  rw [if_neg c1] at h
  by_cases c2 : off < 0x028
  · rw [dif_pos c2] at h
    cases h; simp only [Reg.offset]; omega
  rw [dif_neg c2] at h
  by_cases c3 : off < 0x030
  · rw [dif_pos c3] at h
    cases h; simp only [Reg.offset]; omega
  rw [dif_neg c3] at h
  by_cases c4 : off = 0x030
  · rw [if_pos c4] at h
    cases h; simp only [Reg.offset]; omega
  rw [if_neg c4] at h
  by_cases c5 : off = 0x031
  · rw [if_pos c5] at h
    cases h; simp only [Reg.offset]; omega
  rw [if_neg c5] at h
  by_cases c6 : off = 0x032
  · rw [if_pos c6] at h
    cases h; simp only [Reg.offset]; omega
  rw [if_neg c6] at h
  by_cases c7 : off = 0x033
  · rw [if_pos c7] at h
    cases h; simp only [Reg.offset]; omega
  rw [if_neg c7] at h
  by_cases c8 : off = 0x034
  · rw [if_pos c8] at h
    cases h; simp only [Reg.offset]; omega
  rw [if_neg c8] at h
  by_cases c9 : off = 0x035
  · rw [if_pos c9] at h
    cases h; simp only [Reg.offset]; omega
  rw [if_neg c9] at h
  by_cases c10 : off < 0x100
  · rw [if_pos c10] at h
    cases h
  rw [if_neg c10] at h
  by_cases c11 : off < 0x220
  · rw [dif_pos c11] at h
    cases h; simp only [Reg.offset]; omega
  rw [dif_neg c11] at h
  cases h

/-- An offset in the TKS window has a schedule byte. -/
theorem regAt_tks_window {off : Nat} (low : 0x100 ≤ off) (high : off < 0x220) :
    regAt off = some (.tks ⟨(off - 0x100) / 96, by omega⟩ ⟨(off - 0x100) % 96 / 6, by omega⟩
      ⟨(off - 0x100) % 6, Nat.mod_lt _ (by decide)⟩) := by
  unfold regAt
  rw [dif_neg (by omega), if_neg (by omega), dif_neg (by omega), dif_neg (by omega), if_neg (by omega),
    if_neg (by omega), if_neg (by omega), if_neg (by omega), if_neg (by omega), if_neg (by omega), if_neg (by omega),
    dif_pos high]

/-- Every register is found at its offset. -/
theorem regAt_offset (r : Reg) : regAt r.offset = some r := by
  cases r with
  | km i => fin_cases i <;> rfl
  | ibuf i => fin_cases i <;> rfl
  | obuf i => fin_cases i <;> rfl
  | tks s r b =>
    have := s.isLt
    have := r.isLt
    have := b.isLt
    refine (regAt_tks_window (off := 0x100 + 96 * s.val + 6 * r.val + b.val) (by omega) (by omega)).trans ?_
    simp only [Option.some.injEq, Reg.tks.injEq, Fin.ext_iff]
    omega
  | blen => rfl
  | cmd => rfl
  | status => rfl
  | fcause => rfl
  | finfo => rfl
  | schst => rfl

/-- CMD is at 0x031. -/
theorem regAt_cmd : regAt (Reg.offset .cmd) = some .cmd := regAt_offset .cmd

end Sys2Proof.Machine
end

