-- ==== Sys2Proof/Laws/Step.lean ====
section
/-! SUPPORT. Everything one step can do (00_scope.md R17), said once. -/

namespace Sys2Proof.Machine

/-- A step with no transaction left: the engine waits (R59(c)). -/
theorem step_idle {m : State} (h : m.script = []) : step m = .next m := by
  simp [step, nextTransaction, h]

/-- A step with a transaction: that transaction, with the rest of the script left. -/
theorem step_transact {m : State} {op : HostOp} {rest : List HostOp} (h : m.script = op :: rest) :
    step m = transact Config.formatKey exec op (m.withScript rest) := by
  simp [step, nextTransaction, h]

/-- What a step that is answered did. -/
theorem step_next {m t : State} (h : step m = .next t) :
    (m.script = [] ∧ t = m) ∨ ∃ op rest, m.script = op :: rest ∧
      ((∃ off, op = .read off ∧ hostRead off (m.withScript rest) = .next t) ∨
        (∃ off v, (op = .write off v ∨ (op = .writeBack off ∧ m.reads.getLast? = some v)) ∧
          hostWrite exec off v (m.withScript rest) = .next t) ∨
        (op = .reset ∧ t = resetEngine Config.formatKey (m.withScript rest))) := by
  cases script : m.script with
  | nil => rw [step_idle script] at h; cases h; exact .inl ⟨rfl, rfl⟩
  | cons op rest =>
    rw [step_transact script] at h
    exact .inr ⟨op, rest, rfl, transact_next h⟩

/-! ### Runs of several steps -/

/-- A run whose first step is answered goes on from there. -/
theorem run_succ {M : Host.Core} {k : Nat} {m t : M.State} (h : M.step m = .next t) : M.run (k + 1) m = M.run k t := by
  simp only [Host.Core.run, h]

/-- A run of the machine whose first step is answered goes on from there. -/
theorem core_run_succ {k : Nat} {m t : State} (h : step m = .next t) : core.run (k + 1) m = core.run k t :=
  run_succ (M := core) h

end Sys2Proof.Machine
end

