-- ==== Sys2Proof/Tests/Slice0.lean ====
section
/-! SUPPORT. The model's own tests. Every expected value is the spec's: the words come from the table of R70 and R73, the rest
from the vectors V<n> of 95_test_vectors.md. The last part shows, for each statement that has hypotheses, a concrete
state and operands that meet them. -/

namespace Sys2Proof.Tests

open Sys2Proof.Machine

/-! ### Small states and what is looked at in them -/

/-- A block from its 64 bits, first byte first. -/
def blockOf (v : BitVec 64) : Block := bytesOf 8 v

/-- Three keys side by side. -/
def keysOf (k1 k2 k3 : BitVec 64) : KeyMaterial := bytesOf 24 (k1 ++ k2 ++ k3)

/-- A state with all of IBUF written. -/
def loaded (block : Block) : State :=
  { State.reset with ibuf := block, ibufWritten := Vector.replicate 8 true }

/-- The state right after reset with the stages of `schst` marked built. -/
def built (schst : Byte) : State := { State.reset with schst := schst }

/-- A state that is not Faulted, with one transaction to come. -/
def coming (op : HostOp) : State := { State.reset with script := [op] }

/-- A Faulted state with one transaction to come. -/
def faultedWith (op : HostOp) : State :=
  { State.reset with status := 0x02#8, fcause := 2#8, finfo := 0x00#8, script := [op] }

/-- STATUS, FCAUSE, FINFO, SCHST ("regs" of 95_test_vectors.md section 5). -/
def regs : Outcome → Option (Byte × Byte × Byte × Byte)
  | .next m => some (m.status, m.fcause, m.finfo, m.schst)
  | _ => none

/-- OBUF as a number. -/
def result : Outcome → Option (BitVec 64)
  | .next m => some (bitsOf 64 m.obuf)
  | _ => none

/-- One subkey. -/
def subkey (s : Stage) (r : Fin 16) : Outcome → Option RoundKey
  | .next m => some m.tks[s][r]
  | _ => none

/-- What the host has read. -/
def answers : Outcome → Option (List Byte)
  | .next m => some m.reads
  | _ => none

/-- The name of a refusal. -/
def refusal : Outcome → Option Refusal
  | .refused why => some why
  | _ => none

/-! ### Decoding: each row's word, bit by bit from R70 (OP, Z, DIR, STG) -/

theorem test_decode_ksb : decode (0b0001#4 ++ 0b0#1 ++ 0b0#1 ++ 0b10#2) = .ok (.ksb 2 .enc) ∧
    decode (0b0001#4 ++ 0b0#1 ++ 0b1#1 ++ 0b01#2) = .ok (.ksb 1 .dec) := by decide
theorem test_decode_tksb : decode (0b0010#4 ++ 0b0#1 ++ 0b1#1 ++ 0b00#2) = .ok (.tksb .dec) := by decide
theorem test_decode_bcr : decode (0b0011#4 ++ 0b0#1 ++ 0b0#1 ++ 0b10#2) = .ok (.bcr 2) := by decide
theorem test_decode_tcr : decode (0b0100#4 ++ 0b0#1 ++ 0b0#1 ++ 0b00#2) = .ok .tcr := by decide
theorem test_decode_tcx : decode (0b0101#4 ++ 0b0#1 ++ 0b1#1 ++ 0b00#2) = .ok (.tcx .dec) := by decide

/-- The legal bytes of V70, and no other. -/
theorem test_legal_bytes : (List.range 256).filter (fun n => (decode (BitVec.ofNat 8 n)).isOk) =
    [0x10, 0x11, 0x12, 0x14, 0x15, 0x16, 0x20, 0x24, 0x30, 0x31, 0x32, 0x40, 0x50, 0x54] := by decide

/-- The classes of R74, each refused by its name (the bytes of V70). -/
theorem test_illegal_bytes :
    decode 0x00#8 = .error .operation ∧ decode 0x60#8 = .error .operation ∧ decode 0x18#8 = .error .zBit ∧
    decode 0xFF#8 = .error .zBit ∧ decode 0x13#8 = .error .stage ∧ decode 0x33#8 = .error .stage ∧
    decode 0x21#8 = .error .stage ∧ decode 0x51#8 = .error .stage ∧ decode 0x34#8 = .error .direction ∧
    decode 0x44#8 = .error .direction := by decide

theorem test_table_word : decodeTableWord 8 0x16 = some (.ksb 2 .dec) ∧ decodeTableWord 8 0x43 = none ∧
    decodeTableWord 16 0x40 = none := by decide

/-! ### WellFormed: one ill-formed term for each check -/

/-- Each row refuses a byte that differs from it in a fixed bit, and the rows with a stage refuse STG = 3. -/
theorem test_rows_refuse :
    (Instr.row (.ksb 0 .enc)).selects 0x18#8 = false ∧ (Instr.row (.ksb 0 .enc)).selects 0x13#8 = false ∧
    (Instr.row (.tksb .enc)).selects 0x21#8 = false ∧ (Instr.row (.bcr 0)).selects 0x34#8 = false ∧
    (Instr.row (.bcr 0)).selects 0x33#8 = false ∧ (Instr.row .tcr).selects 0x44#8 = false ∧
    (Instr.row (.tcx .enc)).selects 0x52#8 = false ∧ legalCommandByte 0x00#8 = false := by decide

theorem test_host_op_refused :
    (HostOp.read 0x018).wellFormed = false ∧ (HostOp.read 0x031).wellFormed = false ∧
    (HostOp.read 0x220).wellFormed = false ∧ (HostOp.write 0x028 0x00#8).wellFormed = false ∧
    (HostOp.write 0x01F 0x00#8).wellFormed = false ∧ (HostOp.writeBack 0x032).wellFormed = false ∧
    (HostOp.wideRead 0x000 0).wellFormed = false ∧ (HostOp.wideWrite 0x000 0x00#8 0x00#8 []).wellFormed = false := by
  decide

theorem test_host_op_accepted :
    (HostOp.read 0x21F).wellFormed = true ∧ (HostOp.read 0x032).wellFormed = true ∧
    (HostOp.write 0x017 0x00#8).wellFormed = true ∧ (HostOp.write 0x031 0x00#8).wellFormed = true ∧
    (HostOp.writeBack 0x027).wellFormed = true ∧ HostOp.reset.wellFormed = true := by decide

/-- R117 refuses: a T_IP that repeats a position, a position in both T_PC1C and T_PC1D, a T_E that leaves one out, a T_P that
repeats one, a FORMAT_KEY byte of 0x80. -/
theorem test_params_refused :
    ¬ { instFips with ip := instFips.ip.set 0 1 }.WF ∧ ¬ { instFips with pc1d := instFips.pc1d.set 0 0 }.WF ∧
    ¬ { instFips with e := Vector.replicate 48 0 }.WF ∧ ¬ { instFips with p := instFips.p.set 0 1 }.WF ∧
    ¬ (Params.mk instFips (Vector.replicate 24 0x80#8)).WF :=
  ⟨fun h => absurd h.1 (by decide), fun h => absurd h.2.1 (by decide), fun h => absurd h.2.2.1 (by decide),
    fun h => absurd h.2.2.2 (by decide), fun h => absurd (h.2 0) (by decide)⟩

/-- The named table sets are well formed. -/
theorem test_inst_fips_wf : instFips.WF := by decide
theorem test_inst_s0_wf : instS0.WF := by decide
theorem test_inst_id_wf : instId.WF := by decide

/-! ### BitField and the permutation network (V1 to V14) -/

/-- V1, V3. -/
theorem test_get_bit :
    ([0, 6, 7, 8, 15, 31, 32, 62, 63].map fun p => getBit (blockOf 0x0123456789ABCDEF#64) p) =
      [false, false, true, false, true, true, true, true, true] ∧
    ([0, 1, 30, 31].map fun p => getBit32 0x80000001#32 p) = [true, false, false, true] := by decide

/-- V5, V6, V7. -/
theorem test_place_bit : placeBit true 0 = 0x8000000000000000#64 ∧ placeBit true 10 = 0x0020000000000000#64 ∧
    placeBit true 63 = 1#64 ∧ placeBit false 5 = 0#64 := by decide +kernel

/-- V8, V9. -/
theorem test_permute : permute (#v[2, 0, 1, 1] : Vector (Fin 3) 4) 0b100#3 = 0b0100#4 ∧
    inverse (#v[2, 0, 1] : Vector (Fin 3) 3) = #v[1, 2, 0] := by decide

/-- V10: the bit that leaves position 0 enters position 27. -/
theorem test_rotate : (0x8000001#28).rotateLeft 1 = 0x0000003#28 ∧ (0x8000001#28).rotateLeft 2 = 0x0000006#28 := by decide

/-- V11, V14. -/
theorem test_permute_fips : permute instFips.ip (0x0123456789ABCDEF#64) = 0xCC00CCFFF0AAF0AA#64 ∧
    permute instFips.e 0xF0AAF0AA#32 = 0x7A15557A1555#48 ∧ permute instFips.e 1#32 = 0x800000000002#48 := by
  decide +kernel

/-- The first sixteen entries of V13. -/
theorem test_inverse_fips : (inverse instFips.ip).toList.take 16 =
    [39, 7, 47, 15, 55, 23, 63, 31, 38, 6, 46, 14, 54, 22, 62, 30] := by decide

/-! ### The round function (V30, V31) -/

/-- V31, on T_S[0]. -/
theorem test_substitution_address :
    ([0x00, 0x01, 0x02, 0x18, 0x1E, 0x20, 0x21, 0x3F].map fun g =>
      (substitute instFips (BitVec.ofNat 6 g ++ 0#42) 0).toNat) = [14, 0, 4, 5, 7, 4, 15, 13] := by decide

/-- V30. -/
theorem test_round_function : roundF instFips 0xF0AAF0AA#32 0x1B02EFFC7072#48 = 0x234AA9BB#32 := by decide +kernel

/-! ### The commands -/

/-- V20: the first and the last subkey, in both directions. -/
theorem test_ksb_schedule :
    let m := { State.reset with km := keysOf 0x133457799BBCDFF1#64 0#64 0#64 }
    subkey 0 0 (ksbWith instFips 0 .enc m) = some 0x1B02EFFC7072#48 ∧
    subkey 0 15 (ksbWith instFips 0 .enc m) = some 0xCB3D8B0E17F5#48 ∧
    subkey 0 0 (ksbWith instFips 0 .dec m) = some 0xCB3D8B0E17F5#48 := by decide +kernel

/-- V74: `KSB 1, DEC` after `KSB 0, ENC`; `KSB 2, DEC` alone. -/
theorem test_ksb_schst : regs (exec (.ksb 1 .dec) (built 0x01#8)) = some (0x00#8, 0x00#8, 0x00#8, 0x23#8) ∧
    regs (exec (.ksb 2 .dec) State.reset) = some (0x00#8, 0x00#8, 0x00#8, 0x44#8) := by decide

/-- V23: stage B is built from KM[8..15] in the opposite direction. -/
theorem test_tksb_schedule :
    let m := { State.reset with km := keysOf 0x0123456789ABCDEF#64 0x23456789ABCDEF01#64 0x456789ABCDEF0123#64 }
    subkey 1 0 (tksbWith instFips .enc m) = some 0xB691050A16B5#48 ∧
    subkey 2 15 (tksbWith instFips .enc m) = some 0x66EF20293E0A#48 := by decide +kernel

/-- V74. -/
theorem test_tksb_schst : regs (exec (.tksb .enc) (built 0x44#8)) = some (0x00#8, 0x00#8, 0x00#8, 0x27#8) ∧
    regs (exec (.tksb .dec) State.reset) = some (0x00#8, 0x00#8, 0x00#8, 0x57#8) := by decide

/-- V72, V71: `BCR 1` with nothing built; `BCR 0` with ILEN = 7. -/
theorem test_bcr_faults : regs (exec (.bcr 1) State.reset) = some (0x02#8, 0x03#8, 0x31#8, 0x00#8) ∧
    regs (exec (.bcr 0) { State.reset with blen := 0x87#8 }) = some (0x02#8, 0x01#8, 0x30#8, 0x00#8) := by
  decide

/-- V72, V73: two of three stages built; the length fault before the schedule fault. -/
theorem test_tcr_faults : regs (exec .tcr (built 0x03#8)) = some (0x02#8, 0x03#8, 0x40#8, 0x03#8) ∧
    regs (exec .tcr { State.reset with blen := 0x77#8 }) = some (0x02#8, 0x01#8, 0x40#8, 0x00#8) := by decide

/-- V71, V74, V75: the check precedes the build; a run that succeeds. -/
theorem test_tcx_regs :
    regs (exec (.tcx .enc) { State.reset with blen := 0x80#8 }) = some (0x02#8, 0x01#8, 0x50#8, 0x00#8) ∧
    regs (exec (.tcx .dec) State.reset) = some (0x01#8, 0x00#8, 0x00#8, 0x57#8) := by decide

/-! ### Steps -/

/-- `withFetchWord` makes the very next step run the command (R53, R72). -/
theorem test_step_runs : regs (step (State.reset.withFetchWord 8 0x15)) = some (0x00#8, 0x00#8, 0x00#8, 0x22#8) ∧
    regs (step (State.reset.withFetchWord 8 0x40)) = some (0x02#8, 0x03#8, 0x40#8, 0x00#8) := by decide

/-- V75: IllegalCommand leaves OV. -/
theorem test_step_illegal :
    regs (step { State.reset with status := 0x01#8, schst := 0x27#8, script := [.write 0x031 0x00#8] }) =
      some (0x03#8, 0x02#8, 0x00#8, 0x27#8) := by decide

/-- While Faulted a write to KM[0] and a command are ignored, and a read is answered (R226, R52). -/
theorem test_step_faulted : regs (step (faultedWith (.write 0x031 0x20#8))) = some (0x02#8, 0x02#8, 0x00#8, 0x00#8) ∧
    regs (step (faultedWith (.write 0x218 0x00#8))) = some (0x02#8, 0x02#8, 0x00#8, 0x00#8) ∧
    answers (step (faultedWith (.read 0x033))) = some [0x02#8] := by decide

/-- Reset leaves the Faulted state (R227). -/
theorem test_step_reset : regs (step (faultedWith .reset)) = some (0x00#8, 0x00#8, 0x00#8, 0x00#8) := by decide

/-- V76: TKS[2][15] byte 5 is the last mapped offset. -/
theorem test_step_schedule_window :
    answers (step { coming (.read 0x21F) with schst := 0x04#8, tks := #v[Vector.replicate 16 0#48,
      Vector.replicate 16 0#48, (Vector.replicate 16 0#48).set 15 0x66EF20293E0A#48] }) = some [0x0A#8] := by
  decide

/-- A read of what nothing has written takes one draw, and gives the draw (R52). -/
theorem test_step_draw : step (coming (.read 0x028)) =
    .next { State.reset with reads := [Config.draw 0], draws := 1 } := rfl

/-- Each access of R58 is refused by its name. -/
theorem test_step_refusals :
    refusal (step (coming (.read 0x031))) = some .readOfCmd ∧
    refusal (step (coming (.read 0x036))) = some (.unmappedRead 0x036) ∧
    refusal (step (coming (.write 0x0FF 0x00#8))) = some (.unmappedWrite 0x0FF) ∧
    refusal (step (coming (.write 0x032 0x00#8))) = some (.readOnlyWrite 0x032) ∧
    refusal (step (coming (.write 0x400 0x00#8))) = some (.outsideRegisterFile 0x400) ∧
    refusal (step (coming (.wideRead 0x000 0))) = some (.wideAccess 0x000) ∧
    refusal (step (coming (.writeBack 0x020))) = some .nothingToWriteBack := by decide

/-- PR5: the short last block is filled with zeros and three bytes of its result are kept (R264). -/
theorem test_decoder_blocks :
    payloadBlocks [0xA8#8, 0x26#8, 0xFD#8, 0x8C#8, 0xE5#8, 0x3B#8, 0x85#8, 0x5F#8, 0xDE#8, 0xAD#8, 0xBE#8] =
      [blockOf 0xA826FD8CE53B855F#64, blockOf 0xDEADBE0000000000#64] ∧
    (keptBytes (List.replicate 11 0x00#8) (List.replicate 16 0xC5#8)).length = 11 := by decide

/-! ### Witnesses: for each statement with hypotheses, a state and operands that meet them all, each clause at a boundary -/

theorem witness_primitives : (63 : Nat) / 8 < 8 ∧ (31 : Nat) < 32 ∧ (63 : Nat) < 64 ∧ (0 : Nat) < 64 ∧ (0 : Nat) ≠ 63 := by
  decide

theorem witness_permute : (63 : Nat) < 64 ∧ (64 : Nat) ≤ 64 := by decide

theorem witness_inverse : fipsIp.toList.Nodup := by decide

theorem witness_bytes_and_bits : (7 : Nat) < 8 := by decide

theorem witness_rotation_walk :
    28 = (#v[1, 2, 4, 6, 8, 10, 12, 14, 15, 17, 19, 21, 23, 25, 27, 28] : Vector Nat 16)[(15 : Fin 16)] := by decide

/-- The keys of V21. -/
theorem witness_omitted_bits : ∀ p : Fin 64, p ∈ instFips.pc1c.toList ∨ p ∈ instFips.pc1d.toList →
    getBit (blockOf 0x123456789ABCDEF0#64) p.val = getBit (blockOf 0x133457799BBCDFF1#64) p.val := by decide

/-- The fourth key of V22: C all zeros, D all ones. -/
theorem witness_constant_halves :
    (∀ x ∈ instFips.pc1c.toList, getBit (blockOf 0x1F1F1F1F0E0E0E0E#64) x.val = false) ∧
    (∀ x ∈ instFips.pc1d.toList, getBit (blockOf 0x1F1F1F1F0E0E0E0E#64) x.val = true) := by decide

theorem witness_stage_key : ∀ i : Fin 8, (blockOf 0x456789ABCDEF0123#64)[i] =
    (keysOf 0x0123456789ABCDEF#64 0x23456789ABCDEF01#64 0x456789ABCDEF0123#64)[8 * (2 : Stage).val + i.val]'(by omega) := by
  decide

/-- The first and the last group of Y, at the values 0 and 63. -/
theorem witness_substitution :
    0 = ((0#48).toNat >>> (42 - 6 * (0 : Fin 8).val)) % 64 ∧
    63 = ((BitVec.allOnes 48).toNat >>> (42 - 6 * (7 : Fin 8).val)) % 64 ∧
    (63 : Fin 64).val = ((63 &&& 0x20) ||| ((63 &&& 1) <<< 4) ||| ((63 >>> 1) &&& 15)) := by decide

/-- The corner inputs of V32 have one mixed value; the entries of INST-S0 are 0. -/
theorem witness_mix :
    permute instFips.e 0#32 ^^^ 0#48 = permute instFips.e 0xFFFFFFFF#32 ^^^ 0xFFFFFFFFFFFF#48 ∧
    (∀ (j : Fin 8) (x : Fin 64), instS0.s[j][x] = 0#4) :=
  ⟨by decide +kernel, fun j x => by simp [instS0]⟩

/-- Under INST-S0 the halves of the zero block stay zero. -/
theorem witness_textbook : (⟨0#32, 0#32⟩ : Halves) = initialHalves instS0 (blockOf 0#64) ∧
    ∀ n : Fin 16, (0#32 : BitVec 32) = 0#32 ∧
      0#32 = 0#32 ^^^ roundF instS0 0#32 (Vector.replicate 16 0#48 : KeySchedule)[n] := by decide +kernel

/-- A well-formed table set whose F is 0, and a schedule with all subkeys equal. -/
theorem witness_degenerate : (∀ r rk, roundF instS0 r rk = 0#32) ∧ instS0.WF ∧
    ∀ r r' : Fin 16, (Vector.replicate 16 0x123456789ABC#48 : KeySchedule)[r] =
      (Vector.replicate 16 0x123456789ABC#48 : KeySchedule)[r'] := by
  refine ⟨fun r rk => ?_, test_inst_s0_wf, by decide⟩
  have zero : ∀ (j : Fin 8) (y : BitVec 48), substitute instS0 y j = 0#4 := fun j y => by
    simp [substitute, instS0]
  have all : substituteAll instS0 (mixKey instS0 r rk) = 0#32 := by
    simp only [substituteAll, zero]; decide
  rw [roundF, all]
  decide

theorem witness_triple_keys : ∃ k1 k2 k3 : Block, ∀ i : Fin 8,
    k1[i] = (Vector.replicate 24 0x5A#8 : KeyMaterial)[i.val] ∧
    k2[i] = (Vector.replicate 24 0x5A#8 : KeyMaterial)[8 + i.val] ∧
    k3[i] = (Vector.replicate 24 0x5A#8 : KeyMaterial)[16 + i.val] :=
  ⟨Vector.replicate 8 0x5A#8, Vector.replicate 8 0x5A#8, Vector.replicate 8 0x5A#8, by decide⟩

/-- With k1 = k2 = k3 (V55) the schedules of all the stages are equal. -/
theorem witness_triple_round_trips : instFips.WF ∧
    stageKey (Vector.replicate 24 0x5A#8) 0 = stageKey (Vector.replicate 24 0x5A#8) 2 ∧
    stageKey (Vector.replicate 24 0x5A#8) 0 = stageKey (Vector.replicate 24 0x5A#8) 1 :=
  ⟨test_inst_fips_wf, by decide, by decide⟩

theorem witness_decode : decode 0x54#8 = .ok (.tcx .dec) ∧ (0x68#8).getLsbD 3 = true ∧
    (0x60#8).toNat / 16 = 6 ∧ (0x0F#8).toNat / 16 = 0 ∧ (0x13#8).toNat % 4 = 3 ∧
    ((0x34#8).toNat / 16 = 3 ∧ (0x34#8).getLsbD 2 = true) ∧ ((0x44#8).toNat / 16 = 4 ∧ (0x44#8).getLsbD 2 = true) ∧
    ((0x21#8).toNat / 16 = 2 ∧ (0x21#8).toNat % 4 ≠ 0) ∧ ((0x51#8).toNat / 16 = 5 ∧ (0x51#8).toNat % 4 ≠ 0) := by decide

theorem witness_step_runs : (coming (.write 0x031 0x16#8)).script = .write 0x031 0x16#8 :: [] ∧
    (coming (.write 0x031 0x16#8)).flt = false ∧ decode 0x16#8 = .ok (.ksb 2 .dec) ∧
    (0x16 : Nat) < 256 ∧ decodeTableWord 8 0x16 = some (.ksb 2 .dec) := by decide

theorem witness_illegal : (coming (.write 0x031 0x33#8)).script = .write 0x031 0x33#8 :: [] ∧
    (coming (.write 0x031 0x33#8)).flt = false ∧ legalCommandByte 0x33#8 = false := by decide

theorem witness_ksb : ∃ key : Block, ∀ i : Fin 8,
    key[i] = State.reset.km[8 * (2 : Stage).val + i.val]'(by omega) :=
  ⟨Vector.ofFn fun i => State.reset.km[16 + i.val], fun i => by simp⟩

theorem witness_tksb : State.reset.schst &&& 0x88#8 = 0#8 := by decide

theorem witness_tksb_order : (2 : Stage) ≠ 0 ∧ (0 : Stage) ≠ 1 ∧ (2 : Stage) ≠ 1 := by decide

/-- All of IBUF written, every stage built, the lengths right: what BCR, TCR and TCX run on. -/
def ready : State := { loaded (blockOf 0x0123456789ABCDEF#64) with schst := 0x27#8 }

theorem witness_run : ready.blen = 0x88#8 ∧ (∀ s, ready.sv s = true) ∧ ∀ i : Fin 8, ready.ibufWritten[i] = true := by
  decide

theorem witness_commands_change : exec (.ksb 2 .dec) ready =
      .next (ready.storeSchedule 2 .dec (keySchedule Config.tables (stageKey ready.km 2) .dec)) ∧
    regAt 0x1BF = some (.tks 1 15 5) ∧ (Instr.ksb 2 .dec).writes (.tks 1 15 5) = false ∧
    (Instr.ksb 2 .dec).builds 1 = false ∧ (Instr.ksb 2 .dec).isRun = false :=
  ⟨exec_ksb 2 .dec ready, by decide, by decide, by decide, by decide⟩

/-- Two states that differ in KM and in SD only. -/
def readyOther : State := { ready with km := Vector.replicate 24 0xFF#8, schst := 0x57#8 }

theorem witness_runs_ignore : ready.blen = 0x88#8 ∧ readyOther.blen = 0x88#8 ∧ ready.ibuf = readyOther.ibuf ∧
    ready.ibufWritten = readyOther.ibufWritten ∧ ready.draws = readyOther.draws ∧ ready.tks = readyOther.tks ∧
    (∀ s, ready.sv s = true) ∧ (∀ s, readyOther.sv s = true) ∧
    (∃ t, exec .tcr ready = .next t) ∧ (∃ t, exec .tcr readyOther = .next t) ∧
    ∀ s, (∃ t, exec (.bcr s) ready = .next t) ∧ ∃ t, exec (.bcr s) readyOther = .next t := by
  have good : ready.badLength = false := by decide
  have good' : readyOther.badLength = false := by decide
  have all : ∀ s, ready.sv s = true := by decide
  have all' : ∀ s, readyOther.sv s = true := by decide
  exact ⟨rfl, rfl, rfl, rfl, rfl, rfl, all, all', ⟨_, exec_tcr_run good ((allBuilt_iff _).2 all)⟩,
    ⟨_, exec_tcr_run good' ((allBuilt_iff _).2 all')⟩,
    fun s => ⟨⟨_, exec_bcr_run good (all s)⟩, ⟨_, exec_bcr_run good' (all' s)⟩⟩⟩

theorem witness_tcx_undone : ∃ m1 m2 : State, exec (.tcx .enc) ready = .next m1 ∧ m2.blen = 0x88#8 ∧
    (∀ i : Fin 8, m2.ibufWritten[i] = true) ∧ m2.ibuf = m1.obuf ∧ m2.km = swapKeys ready.km :=
  ⟨_, { ready with
      ibuf := tripleCipher Config.tables ready.inputBlock ready.km .enc, km := swapKeys ready.km },
    exec_tcx_run (by decide), rfl, witness_run.2.2, (storeResult_obuf _ _).symm, rfl⟩

/-- ILEN alone wrong, and OLEN alone wrong. -/
theorem witness_length : (Instr.bcr 2).isRun = true ∧ Instr.tcr.isRun = true ∧ (Instr.tcx .dec).isRun = true ∧
    State.ilen { State.reset with blen := 0x87#8 } ≠ 8 ∧ State.olen { State.reset with blen := 0x98#8 } ≠ 8 := by
  decide

theorem witness_unbuilt : (built 0x03#8).blen = 0x88#8 ∧ (built 0x03#8).sv 2 = false := by decide

theorem witness_faulted_write : (faultedWith (.write 0x3FF 0x00#8)).flt = true ∧ (0x3FF : Nat) ≤ 0x3FF ∧
    (faultedWith (.write 0x3FF 0x00#8)).script = .write 0x3FF 0x00#8 :: [] := by decide

theorem witness_faulted_until_reset : (faultedWith (.read 0x032)).flt = true ∧
    ¬ (faultedWith (.read 0x032)).ResetNext ∧ ∃ t, step (faultedWith (.read 0x032)) = .next t :=
  ⟨by decide, by decide, _, rfl⟩

theorem witness_address_map : ((0x018 : Nat) ≤ 0x01F ∧ (0x036 : Nat) ≤ 0x0FF ∧ (0x220 : Nat) ≤ 0x220) ∧
    regAt 0x21F = some (.tks 2 15 5) := by decide

theorem witness_read_values : (built 0x04#8).schst.getLsbD (2 : Stage).val = true ∧
    (built 0x04#8).schst.getLsbD (1 : Stage).val = false := by decide

theorem witness_read : (coming (.read 0x21F)).script = .read 0x21F :: [] ∧ regAt 0x21F = some (.tks 2 15 5) ∧
    Reg.tks 2 15 5 ≠ .cmd := by decide

theorem witness_write : ∀ off ∈ [0x017, 0x027, 0x030], (coming (.write off 0xFF#8)).flt = false ∧
    (coming (.write off 0xFF#8)).script = .write off 0xFF#8 :: [] := by decide

theorem witness_listed : (coming (.read 0x031)).flt = false ∧ (HostOp.read 0x031).wellFormed = false ∧
    (HostOp.read 0x030).wellFormed = true ∧ (HostOp.writeBack 0x020).wellFormed = true ∧
    { coming (.writeBack 0x020) with reads := [0x01#8] }.reads ≠ [] := by decide

theorem witness_move : let m := { State.reset with status := 0x01#8, script := moveOutputToInput }
    m.flt = false ∧ m.ov = true ∧ m.script = moveOutputToInput ++ [] := by
  refine ⟨by decide, by decide, by simp⟩

theorem witness_reset : (faultedWith .reset).script = .reset :: [] ∧ (faultedWith .reset).flt = true := by decide

/-- The invariant holds of a Faulted state that a read can step from. -/
theorem witness_invariant : (faultedWith (.read 0x034)).Inv ∧ ∃ t, step (faultedWith (.read 0x034)) = .next t :=
  ⟨⟨by decide, by decide, by decide, by decide, by decide,
    ⟨fun _ => rfl, fun h => absurd h (by decide), fun _ => ⟨.operation, by decide⟩, fun h => absurd h (by decide)⟩⟩, _, rfl⟩

/-- A state with a built stage, whose schedule is the schedule of a key. -/
theorem witness_schedules : ∃ m t : State, m.SchedulesDerived ∧ m.sv 0 = true ∧ step m = .next t := by
  refine ⟨State.reset.storeSchedule 0 .enc (keySchedule Config.tables (Vector.replicate 8 0#8) .enc), _, ?_, by simp,
    step_idle rfl⟩
  intro s marked
  have zero : s = 0 := by
    have : State.reset.sv s = false := by fin_cases s <;> decide
    simpa [this] using marked
  subst zero
  exact ⟨Vector.replicate 8 0#8, by simp [Dir.ofBit]⟩

theorem witness_only_reset : ∃ m t : State, m.Inv ∧ m.fcause ≠ 0#8 ∧ m.ov = true ∧ m.sv 2 = true ∧
    step m = .next t ∧ ¬ m.ResetNext := by
  refine ⟨{ State.reset with status := 0x03#8, fcause := 2#8, finfo := 0x00#8, schst := 0x27#8 }, _, ?_, by decide,
    by decide, by decide, step_idle rfl, by decide⟩
  exact ⟨by decide, by decide, by decide, by decide, by decide,
    ⟨fun _ => rfl, fun h => absurd h (by decide), fun _ => ⟨.operation, by decide⟩, fun h => absurd h (by decide)⟩⟩

theorem witness_idle : State.reset.script = [] := rfl

/-- A write that changes BLEN, and one that changes IBUF. -/
theorem witness_inputs_change : ∃ t u : State,
    step (coming (.write 0x030 0x77#8)) = .next t ∧ (coming (.write 0x030 0x77#8)).blen ≠ t.blen ∧
    step (coming (.write 0x027 0x01#8)) = .next u ∧ (coming (.write 0x027 0x01#8)).ibuf ≠ u.ibuf :=
  ⟨_, _, rfl, by decide, rfl, by decide⟩

/-! ### The results of the run commands; last, because they take the longest to evaluate -/

/-- V40, with the schedule of V20. -/
theorem test_bcr_result :
    let ks : KeySchedule := #v[0x1B02EFFC7072#48, 0x79AED9DBC9E5#48, 0x55FC8A42CF99#48, 0x72ADD6DB351D#48,
      0x7CEC07EB53A8#48, 0x63A53E507B2F#48, 0xEC84B7F618BC#48, 0xF78A3AC13BFB#48, 0xE0DBEBEDE781#48,
      0xB1F347BA464F#48, 0x215FD3DED386#48, 0x7571F59467E9#48, 0x97C5D1FABA41#48, 0x5F43B7F2E73A#48,
      0xBF918D3D3F0A#48, 0xCB3D8B0E17F5#48]
    result (bcrWith instFips 0 { loaded (blockOf 0x0123456789ABCDEF#64) with schst := 0x01#8, tks := #v[ks, ks, ks] }) =
      some 0x85E813540F0AB405#64 := by decide +kernel

/-- V61: under INST-S0 three applications of an involution. -/
theorem test_tcr_result :
    result (tcrWith instS0 { loaded (blockOf 0x0123456789ABCDEF#64) with schst := 0x27#8 }) =
      some 0x02138A9B4657CEDF#64 := by decide +kernel

/-- V62(e), under INST-ID. -/
theorem test_tcx_result :
    let m := loaded (blockOf 0x0123456789ABCDEF#64)
    result (tcxWith instId .enc { m with km := Vector.ofFn fun i => BitVec.ofNat 8 (i.val + 1) }) =
      some 0x498A5F75A6E39C03#64 := by decide +kernel

end Sys2Proof.Tests
end

/-! PROOFS. O4: byte sequences and bit vectors (00_scope.md R11, R12, R54). -/

namespace Sys2Proof.Machine

/-- Byte `b` of `bytesOf v` holds the positions of `v` from `8b` on (R12, R136). -/
theorem getMsbD_getElem_bytesOf {w n : Nat} (v : BitVec w) (b : Nat) (hb : b < n) {p : Nat} (hp : p < 8) :
    (bytesOf n v)[b].getMsbD p = v.getMsbD (8 * b + p) := by
  rw [getElem_bytesOf, getMsbD_slice]
  simp [hp]

theorem getBit_push_of_lt {n p : Nat} (bytes : Vector Byte n) (b : Byte) (hp : p < 8 * n) :
    getBit (bytes.push b) p = getBit bytes p := by
  have old : p / 8 < n := by omega
  rw [getBit, getBit, byteAt_of_lt _ old, byteAt_of_lt _ (by omega), Vector.getElem_push_lt old]

theorem getBit_push_last {n p : Nat} (bytes : Vector Byte n) (b : Byte) (hp : p < 8) :
    getBit (bytes.push b) (8 * n + p) = b.getMsbD p := by
  have quot : (8 * n + p) / 8 = n := by omega
  have rem : (8 * n + p) % 8 = p := by omega
  rw [getBit_eq_getMsbD, quot, rem, byteAt_of_lt _ (Nat.lt_succ_self n), Vector.getElem_push_eq]

/-- A byte put after a byte sequence stands at the low end of its bit vector. -/
theorem bitsOf_push {n w : Nat} (hw : w = 8 * n) (bytes : Vector Byte n) (b : Byte) :
    bitsOf (w + 8) (bytes.push b) = bitsOf w bytes ++ b := by
  refine BitVec.eq_of_getMsbD_eq fun p hp => ?_
  rw [getMsbD_bitsOf, BitVec.getMsbD_append, getMsbD_bitsOf]
  by_cases old : p < w
  · have same : getBit (bytes.push b) p = getBit bytes p := getBit_push_of_lt bytes b (hw ▸ old)
    simp [hp, old, same, Nat.not_le.mpr old]
  · obtain ⟨q, rfl⟩ := Nat.exists_eq_add_of_le (Nat.le_of_not_lt old)
    have last : getBit (bytes.push b) (w + q) = b.getMsbD q := by
      rw [hw]
      exact getBit_push_last bytes b (by omega)
    simp [hp, last]

/-- Byte sequences are big-endian numbers in base 256 (R54): Horner's rule, a byte at a time. -/
theorem toNat_bitsOf_push {n w : Nat} (hw : w = 8 * n) (bytes : Vector Byte n) (b : Byte) :
    (bitsOf (w + 8) (bytes.push b)).toNat = (bitsOf w bytes).toNat * 2 ^ 8 + b.toNat := by
  rw [bitsOf_push hw, BitVec.toNat_append, ← Nat.shiftLeft_add_eq_or_of_lt b.isLt, Nat.shiftLeft_eq]

/-- Four bytes taken as a 32-bit number (R54). -/
theorem toNat_bitsOf_four (b0 b1 b2 b3 : Byte) : (bitsOf 32 #v[b0, b1, b2, b3]).toNat =
    b0.toNat * 2 ^ 24 + b1.toNat * 2 ^ 16 + b2.toNat * 2 ^ 8 + b3.toNat := by
  have first : (bitsOf 8 #v[b0]).toNat = (bitsOf 0 #v[]).toNat * 2 ^ 8 + b0.toNat :=
    toNat_bitsOf_push (w := 0) rfl #v[] b0
  have second : (bitsOf 16 #v[b0, b1]).toNat = (bitsOf 8 #v[b0]).toNat * 2 ^ 8 + b1.toNat :=
    toNat_bitsOf_push (w := 8) rfl #v[b0] b1
  have third : (bitsOf 24 #v[b0, b1, b2]).toNat = (bitsOf 16 #v[b0, b1]).toNat * 2 ^ 8 + b2.toNat :=
    toNat_bitsOf_push (w := 16) rfl #v[b0, b1] b2
  have fourth : (bitsOf 32 #v[b0, b1, b2, b3]).toNat = (bitsOf 24 #v[b0, b1, b2]).toNat * 2 ^ 8 + b3.toNat :=
    toNat_bitsOf_push (w := 24) rfl #v[b0, b1, b2] b3
  have empty : (bitsOf 0 (#v[] : Vector Byte 0)).toNat = 0 := rfl
  rw [fourth, third, second, first, empty]
  ring

/-- Settles O4: the round trips are the laws of `bytesOf` and `bitsOf`; the big-endian value is Horner's rule four times. -/
theorem bytesAndBitsAreInverse : Obligations.BytesAndBitsAreInverse :=
  ⟨fun _ bytes => bytesOf_bitsOf _ rfl bytes, fun n v => bitsOf_bytesOf n rfl v,
    fun _ v b _ hp => getMsbD_getElem_bytesOf v b.val b.isLt hp, toNat_bitsOf_four⟩

end Sys2Proof.Machine

/-! PROOFS. Lemmas of the state family: a command is decoded from its byte (30_encoding.md R72, R73); everything a transaction
that is answered does to the registers, said once; a property that every step keeps (20_memory.md R52, R53;
70_reset_and_hazards.md R250). -/

namespace Sys2Proof

/-- The direction bit stands for its direction (R14, R31). -/
theorem Dir.ofBit_beq_dec (d : Dir) : Dir.ofBit (d == .dec) = d := by cases d <;> rfl

/-- Encoding and then decoding a command gives the command back (R72, R73): the fourteen bytes. -/
theorem decode_encode (i : Instr) : decode (encode i) = .ok i := by
  cases i with
  | ksb s d => fin_cases s <;> cases d <;> rfl
  | tksb d => cases d <;> rfl
  | bcr s => fin_cases s <;> rfl
  | tcr => rfl
  | tcx d => cases d <;> rfl

end Sys2Proof

namespace Sys2Proof.Machine

/-- The operation is a host write to the offset, of `v` or of the byte read last (R53, R77). -/
def WritesTo (op : HostOp) (off : Nat) (v : Byte) : Prop := op = .write off v ∨ op = .writeBack off

/-- What an answered transaction `op` makes of the state `m`. -/
inductive Performed (op : HostOp) (m : State) : State → Prop
  /-- A read, or a write while Faulted. -/
  | kept {t : State} (same : m.SameRegisters t) : Performed op m t
  /-- A write to KM[i]. -/
  | km (i : Fin 24) (v : Byte) (wrote : WritesTo op i.val v) (running : m.flt = false) : Performed op m (m.setKm i v)
  /-- A write to IBUF[i]. -/
  | ibuf (i : Fin 8) (v : Byte) (wrote : WritesTo op (0x020 + i.val) v) (running : m.flt = false) :
      Performed op m (m.setIbuf i v)
  /-- A write to BLEN. -/
  | blen (v : Byte) (wrote : WritesTo op 0x030 v) (running : m.flt = false) : Performed op m (m.setBlen v)
  /-- A write to CMD. -/
  | command {t : State} (v : Byte) (wrote : WritesTo op 0x031 v) (running : m.flt = false)
      (executed : executeCommand exec v m = .next t) : Performed op m t
  /-- A reset. -/
  | reset (isReset : op = .reset) : Performed op m (resetEngine Config.formatKey m)

theorem State.SameRegisters.refl (m : State) : m.SameRegisters m := ⟨rfl, rfl, rfl, rfl, rfl, rfl, rfl, rfl, rfl, rfl⟩

/-- A read that is answered changes no register (R52). -/
theorem hostRead_sameRegisters {off : Nat} {m t : State} (h : hostRead off m = .next t) : m.SameRegisters t := by
  obtain ⟨-, reg, -, ⟨v, -, rfl⟩ | ⟨-, rfl⟩⟩ := hostRead_next h
  · exact ⟨rfl, rfl, rfl, rfl, rfl, rfl, rfl, rfl, rfl, rfl⟩
  · exact ⟨rfl, rfl, rfl, rfl, rfl, rfl, rfl, rfl, rfl, rfl⟩

/-- A host write that is answered (R53). -/
theorem hostWrite_performed {op : HostOp} {off : Nat} {v : Byte} {m t : State} (wrote : WritesTo op off v)
    (h : hostWrite exec off v m = .next t) : Performed op m t := by
  obtain ⟨-, ⟨-, rfl⟩ | ⟨running, write⟩⟩ := hostWrite_next h
  · exact .kept (.refl _)
  · obtain ⟨i, found, rfl⟩ | ⟨i, found, rfl⟩ | ⟨found, rfl⟩ | ⟨found, executed⟩ := write <;>
      obtain rfl := offset_of_regAt found
    · exact .km i v wrote running
    · exact .ibuf i v wrote running
    · exact .blen v wrote running
    · exact .command v wrote running executed

/-- A step that is answered performs the script's next transaction. -/
theorem step_performed {op : HostOp} {rest : List HostOp} {m t : State} (script : m.script = op :: rest)
    (h : step m = .next t) : Performed op (m.withScript rest) t := by
  rw [step_transact script] at h
  obtain ⟨off, rfl, read⟩ | ⟨off, v, isWrite, write⟩ | ⟨rfl, rfl⟩ := transact_next h
  · exact .kept (hostRead_sameRegisters read)
  · exact hostWrite_performed (isWrite.imp id And.left) write
  · exact .reset rfl

/-- A property that the host's script does not enter and every transaction keeps is kept by every step. -/
theorem step_keeps {P : State → Prop} (script : ∀ m ops, P m → P (m.withScript ops))
    (performed : ∀ op m t, P m → Performed op m t → P t) {m t : State} (holds : P m) (h : step m = .next t) : P t := by
  cases next : m.script with
  | nil =>
    rw [step_idle next] at h
    cases h; exact holds
  | cons op rest => exact performed op _ t (script m rest holds) (step_performed next h)

/-- The reset state is what reset makes of it. -/
theorem reset_eq_resetEngine : State.reset = resetEngine Config.formatKey State.reset := rfl

end Sys2Proof.Machine

/-! PROOFS. O50, O49: the invariant of the status and fault registers (10_state.md R28 to R31; 60_exceptions.md R220, R224,
R226). -/

namespace Sys2Proof.Machine

/-! ### The invariant where no fault is recorded -/

/-- A state that is not Faulted records no fault. -/
theorem State.Inv.noRecord {m : State} (inv : m.Inv) (running : m.flt = false) : m.fcause = 0#8 ∧ m.finfo = 0#8 := by
  have clear : m.fcause = 0#8 := by
    by_contra raised
    simp [inv.faulted.mpr raised] at running
  exact ⟨clear, inv.record.noFault clear⟩

/-- A record of no fault is true. -/
theorem trueRecord_of_noFault {m : State} (cause : m.fcause = 0#8) (info : m.finfo = 0#8) : m.TrueRecord where
  noFault _ := info
  length raised := by simp [cause] at raised
  illegal raised := by simp [cause] at raised
  schedule raised := by simp [cause] at raised

/-- A change that enters no fault and touches no reserved bit keeps the invariant of a state that is not Faulted, whatever it
does to BLEN, OV and the schedules, if SD stays 0 where SV is. -/
theorem State.Inv.of_sameFault {m t : State} (inv : m.Inv) (running : m.flt = false) (fault : m.SameFault t)
    (status : t.status &&& 0xFC#8 = m.status &&& 0xFC#8) (schst : t.schst &&& 0x88#8 = m.schst &&& 0x88#8)
    (direction : ∀ s, t.sv s = false → t.sd s = false) : t.Inv := by
  obtain ⟨cause, info⟩ := inv.noRecord running
  rw [← fault.fcause] at cause
  rw [← fault.finfo] at info
  exact {
    statusReserved := status.trans inv.statusReserved
    faulted := by simp [fault.flt, running, cause]
    cause := by simp [cause]
    schstReserved := schst.trans inv.schstReserved
    direction
    record := trueRecord_of_noFault cause info }

/-- The same, where SCHST is left alone too. -/
theorem State.Inv.of_sameFault_of_schst {m t : State} (inv : m.Inv) (running : m.flt = false) (fault : m.SameFault t)
    (status : t.status &&& 0xFC#8 = m.status &&& 0xFC#8) (schst : t.schst = m.schst) : t.Inv :=
  inv.of_sameFault running fault status (by rw [schst]) (by simpa only [State.sv, State.sd, schst] using inv.direction)

/-- The invariant speaks of BLEN, STATUS, FCAUSE, FINFO and SCHST alone. -/
theorem State.Inv.congr {m t : State} (inv : m.Inv) (blen : t.blen = m.blen) (status : t.status = m.status)
    (fcause : t.fcause = m.fcause) (finfo : t.finfo = m.finfo) (schst : t.schst = m.schst) : t.Inv := by
  obtain ⟨reserved, faulted, cause, schstReserved, direction, ⟨noFault, length, illegal, schedule⟩⟩ := inv
  simp only [State.flt, State.sv, State.sd, ← blen, ← status, ← fcause, ← finfo, ← schst] at *
  exact ⟨reserved, faulted, cause, schstReserved, direction, ⟨noFault, length, illegal, schedule⟩⟩

/-! ### Fault entry (R226) -/

/-- R221: the record of a run command under a wrong length is true. -/
theorem raise_invalidBlockLength_trueRecord {i : Instr} {m : State} (run : i.isRun = true) (bad : m.badLength = true) :
    (raise .invalidBlockLength (encode i) m).TrueRecord where
  noFault := nofun
  length _ := ⟨(badLength_eq_true_iff m).mp bad, i, decode_encode i, run⟩
  illegal := nofun
  schedule := nofun

/-- R222: the record of a byte that is no command is true. -/
theorem raise_illegalCommand_trueRecord {c : Byte} {why : Illegal} (m : State) (illegal : decode c = .error why) :
    (raise .illegalCommand c m).TrueRecord where
  noFault := nofun
  length := nofun
  illegal _ := ⟨why, illegal⟩
  schedule := nofun

theorem exists_unbuilt {m : State} (h : m.allBuilt = false) : ∃ s, m.sv s = false := by
  by_contra all
  rw [(allBuilt_iff m).mpr (by simpa using all)] at h
  cases h

/-- R223: the record of `BCR s` or TCR under the right lengths with a schedule it needs not built is true. -/
theorem raise_scheduleNotBuilt_trueRecord {i : Instr} {m : State} (good : m.badLength = false)
    (unbuilt : (∃ s, i = .bcr s ∧ m.sv s = false) ∨ (i = .tcr ∧ m.allBuilt = false)) :
    (raise .scheduleNotBuilt (encode i) m).TrueRecord where
  noFault := nofun
  length := nofun
  illegal := nofun
  schedule _ := by
    refine ⟨(badLength_eq_false_iff m).mp good, ?_⟩
    obtain ⟨s, rfl, notBuilt⟩ | ⟨rfl, notBuilt⟩ := unbuilt
    · exact .inl ⟨s, decode_encode _, by rwa [raise_sv]⟩
    · exact .inr ⟨decode_encode _, by simpa only [raise_sv] using exists_unbuilt notBuilt⟩

/-- Fault entry keeps the invariant when what it records is true. -/
theorem State.Inv.raise {m : State} (inv : m.Inv) {cause : FaultCause} {c : Byte}
    (record : (raise cause c m).TrueRecord) : (raise cause c m).Inv where
  statusReserved := (withFlt_reserved m.status).trans inv.statusReserved
  faulted := by cases cause <;> simp [FaultCause.code]
  cause := by cases cause <;> simp [FaultCause.code]
  schstReserved := inv.schstReserved
  direction := by simpa only [raise_sv, raise_sd] using inv.direction
  record

/-! ### Commands (R140, R141, R180, R200, R201) -/

theorem State.Inv.storeSchedule {m : State} (inv : m.Inv) (running : m.flt = false) (s : Stage) (d : Dir)
    (ks : KeySchedule) : (m.storeSchedule s d ks).Inv := by
  refine inv.of_sameFault running (storeSchedule_sameFault m s d ks) rfl (withBuilt_reserved s d m.schst) fun k unbuilt => ?_
  rw [storeSchedule_sv, Bool.or_eq_false_iff, decide_eq_false_iff_not] at unbuilt
  rw [storeSchedule_sd, if_neg unbuilt.2]
  exact inv.direction k unbuilt.1

theorem State.Inv.buildAll {m : State} (inv : m.Inv) (running : m.flt = false) (t : Tables) (d : Dir) :
    (m.buildAll t d).Inv :=
  inv.of_sameFault running (buildAll_sameFault m t d) rfl (buildAll_reserved t d m) fun s unbuilt => by
    simp at unbuilt

/-- The end of a run (R180, R200, R201). -/
theorem State.Inv.run {m : State} (inv : m.Inv) (running : m.flt = false) (n : Nat) (block : Block) :
    ((m.takeDraws n).storeResult block).Inv :=
  inv.of_sameFault_of_schst running (run_sameFault m n block) (withOv_reserved m.status) rfl

/-- A command keeps the invariant. -/
theorem State.Inv.of_exec {m t : State} (inv : m.Inv) (running : m.flt = false) {i : Instr} (h : exec i m = .next t) :
    t.Inv := by
  obtain ⟨run, bad, rfl⟩ | ⟨good, unbuilt, rfl⟩ | ⟨s, d, -, rfl⟩ | ⟨d, -, rfl⟩ | ⟨-, n, block, rfl, -⟩ |
    ⟨-, d, n, block, -, rfl⟩ := exec_next h
  · exact inv.raise (raise_invalidBlockLength_trueRecord run bad)
  · exact inv.raise (raise_scheduleNotBuilt_trueRecord good unbuilt)
  · exact inv.storeSchedule running s d _
  · exact inv.buildAll running _ d
  · exact inv.run running n block
  · exact (inv.buildAll running _ d).run (by rwa [buildAll_flt]) n block

/-- A write to CMD keeps the invariant. -/
theorem State.Inv.of_executeCommand {m t : State} (inv : m.Inv) (running : m.flt = false) {c : Byte}
    (h : executeCommand exec c m = .next t) : t.Inv := by
  obtain ⟨i, -, executed⟩ | ⟨why, illegal, rfl⟩ := executeCommand_next h
  · exact inv.of_exec running executed
  · exact inv.raise (raise_illegalCommand_trueRecord m illegal)

/-! ### Reset and every step -/

/-- The invariant holds after reset (R40). -/
theorem resetEngine_inv (fk : KeyMaterial) (m : State) : (resetEngine fk m).Inv where
  statusReserved := by simp
  faulted := by simp
  cause := by simp
  schstReserved := by simp
  direction := by simp
  record := trueRecord_of_noFault rfl rfl

/-- Every transaction keeps the invariant. While Faulted no register changes, so the record stays true; a write to BLEN, which
could make it false, is performed only where there is none. -/
theorem State.Inv.of_performed {op : HostOp} {m t : State} (inv : m.Inv) (h : Performed op m t) : t.Inv := by
  cases h with
  | kept same => exact inv.congr same.blen same.status same.fcause same.finfo same.schst
  | km i v wrote running => exact inv.congr rfl rfl rfl rfl rfl
  | ibuf i v wrote running => exact inv.congr rfl rfl rfl rfl rfl
  | blen v wrote running => exact inv.of_sameFault_of_schst running ⟨rfl, rfl, rfl⟩ rfl rfl
  | command v wrote running executed => exact inv.of_executeCommand running executed
  | reset isReset => exact resetEngine_inv _ m

/-- Settles O50: each transaction keeps the invariant. -/
theorem everyStepKeepsTheInvariant : Obligations.EveryStepKeepsTheInvariant := fun _ _ inv h =>
  step_keeps (fun _ _ inv => inv.congr rfl rfl rfl rfl rfl) (fun _ _ _ inv => inv.of_performed) inv h

/-- Settles O49: the reset state is one that reset leaves. -/
theorem resetMeetsTheInvariant : Obligations.ResetMeetsTheInvariant := by
  unfold Obligations.ResetMeetsTheInvariant
  rw [reset_eq_resetEngine]
  exact resetEngine_inv _ _

end Sys2Proof.Machine

/-! PROOFS. O51: a schedule marked built is derived from a key (10_state.md R31, R32; 70_reset_and_hazards.md R256). -/

namespace Sys2Proof.Machine

/-- A build of all stages is three builds of one stage, each from its own key (R139, R141). -/
theorem buildAll_eq_storeSchedule (t : Tables) (d : Dir) (m : State) :
    m.buildAll t d = ((m.storeSchedule 0 d (keySchedule t (stageKey m.km 0) d)).storeSchedule 1 d.opposite
      (keySchedule t (stageKey m.km 1) d.opposite)).storeSchedule 2 d (keySchedule t (stageKey m.km 2) d) := rfl

/-- The property speaks of TKS and SCHST alone. -/
theorem State.SchedulesDerived.of_sameSchedules {m t : State} (derived : m.SchedulesDerived) (same : m.SameSchedules t) :
    t.SchedulesDerived := by
  simpa only [State.SchedulesDerived, State.sv, State.sd, same.tks, same.schst] using derived

/-- A build keeps every marked schedule derived: its own is, and the others stay. -/
theorem State.SchedulesDerived.storeSchedule {m : State} (derived : m.SchedulesDerived) (s : Stage) (d : Dir)
    (key : Block) : (m.storeSchedule s d (keySchedule Config.tables key d)).SchedulesDerived := by
  intro k valid
  by_cases same : k = s
  · subst same
    exact ⟨key, by simp [Dir.ofBit_beq_dec]⟩
  · obtain ⟨old, schedule⟩ := derived k (by simpa [same] using valid)
    have other : s.val ≠ k.val := fun e => same (Fin.ext e.symm)
    refine ⟨old, ?_⟩
    rw [storeSchedule_sd, if_neg same, ← schedule]
    simp [other]

theorem State.SchedulesDerived.buildAll {m : State} (derived : m.SchedulesDerived) (d : Dir) :
    (m.buildAll Config.tables d).SchedulesDerived := by
  rw [buildAll_eq_storeSchedule]
  exact ((derived.storeSchedule 0 d _).storeSchedule 1 d.opposite _).storeSchedule 2 d _

/-- After reset no schedule is marked built. -/
theorem resetEngine_schedulesDerived (fk : KeyMaterial) (m : State) : (resetEngine fk m).SchedulesDerived := by
  intro s valid
  simp at valid

/-- A command keeps every marked schedule derived. -/
theorem State.SchedulesDerived.of_exec {m t : State} (derived : m.SchedulesDerived) {i : Instr}
    (h : exec i m = .next t) : t.SchedulesDerived := by
  obtain ⟨-, -, rfl⟩ | ⟨-, -, rfl⟩ | ⟨s, d, -, rfl⟩ | ⟨d, -, rfl⟩ | ⟨-, n, block, rfl, -⟩ |
    ⟨-, d, n, block, -, rfl⟩ := exec_next h
  · exact derived.of_sameSchedules (raise_faultEntered m _ _).schedules
  · exact derived.of_sameSchedules (raise_faultEntered m _ _).schedules
  · exact derived.storeSchedule s d _
  · exact derived.buildAll d
  · exact derived.of_sameSchedules (run_sameSchedules m n block)
  · exact (derived.buildAll d).of_sameSchedules (run_sameSchedules _ n block)

/-- Every transaction keeps every marked schedule derived. -/
theorem State.SchedulesDerived.of_performed {op : HostOp} {m t : State} (derived : m.SchedulesDerived)
    (h : Performed op m t) : t.SchedulesDerived := by
  cases h with
  | kept same => exact derived.of_sameSchedules ⟨same.tks, same.schst⟩
  | km i v wrote running => exact derived.of_sameSchedules ⟨rfl, rfl⟩
  | ibuf i v wrote running => exact derived.of_sameSchedules ⟨rfl, rfl⟩
  | blen v wrote running => exact derived.of_sameSchedules ⟨rfl, rfl⟩
  | command v wrote running executed =>
    obtain ⟨i, -, executed⟩ | ⟨why, -, rfl⟩ := executeCommand_next executed
    · exact derived.of_exec executed
    · exact derived.of_sameSchedules (raise_faultEntered m _ _).schedules
  | reset isReset => exact resetEngine_schedulesDerived _ m

/-- Settles O51: true at reset, where nothing is built, and kept by each transaction. -/
theorem builtSchedulesAreDerived : Obligations.BuiltSchedulesAreDerived :=
  ⟨resetEngine_schedulesDerived Config.formatKey State.reset, fun _ _ derived h =>
    step_keeps (fun _ _ derived => derived.of_sameSchedules ⟨rfl, rfl⟩) (fun _ _ _ derived => derived.of_performed)
      derived h⟩

end Sys2Proof.Machine

/-! PROOFS. O54: which transaction writes which register (10_state.md R23 to R26, R28 to R32; 20_memory.md R59). -/

namespace Sys2Proof.Machine

/-- A command writes none of KM, IBUF and BLEN (R23, R24, R26). -/
theorem exec_sameInputs {i : Instr} {m t : State} (h : exec i m = .next t) : m.SameInputs t := by
  obtain ⟨-, -, rfl⟩ | ⟨-, -, rfl⟩ | ⟨s, d, -, rfl⟩ | ⟨d, -, rfl⟩ | ⟨-, n, block, rfl, -⟩ |
    ⟨-, d, n, block, -, rfl⟩ := exec_next h
  · exact (raise_faultEntered m _ _).inputs
  · exact (raise_faultEntered m _ _).inputs
  · exact storeSchedule_sameInputs m s d _
  · exact buildAll_sameInputs m _ d
  · exact run_sameInputs m n block
  · exact (buildAll_sameInputs m _ d).trans (run_sameInputs _ n block)

/-- Nor does a write to CMD of a byte that is no command (R226). -/
theorem executeCommand_sameInputs {c : Byte} {m t : State} (h : executeCommand exec c m = .next t) : m.SameInputs t := by
  obtain ⟨i, -, executed⟩ | ⟨why, -, rfl⟩ := executeCommand_next h
  · exact exec_sameInputs executed
  · exact (raise_faultEntered m _ _).inputs

/-- Settles O54: case by case, the registers a transaction leaves are those it is not a write to. -/
theorem registersChangeOnlyByTheirWriters : Obligations.RegistersChangeOnlyByTheirWriters := by
  intro m t op rest script h notReset
  cases step_performed script h with
  | kept same => simp [same.km, same.ibuf, same.blen, same.obuf, same.tks, same.schst, same.status, same.fcause, same.finfo]
  | km i v wrote running => exact ⟨fun _ => ⟨i, v, wrote⟩, by simp, by simp, by simp⟩
  | ibuf i v wrote running => exact ⟨by simp, fun _ => ⟨i, v, wrote⟩, by simp, by simp⟩
  | blen v wrote running => exact ⟨by simp, by simp, fun _ => ⟨v, wrote⟩, by simp⟩
  | command v wrote running executed =>
    have same := executeCommand_sameInputs executed
    exact ⟨by simp [same.km], by simp [same.ibuf], by simp [same.blen], fun _ => ⟨v, wrote⟩⟩
  | reset isReset => exact absurd isReset notReset

end Sys2Proof.Machine

/-! PROOFS. O47: the state right after reset (10_state.md R40). -/

namespace Sys2Proof.Machine

/-- An IBUF byte that nothing has written reads as a draw (R52). -/
theorem readReg_ibuf_of_unwritten {m : State} {i : Fin 8} (unwritten : m.ibufWritten[i] = false) :
    m.readReg (.ibuf i) = .draw := by
  rw [State.readReg, unwritten, cond_false]

/-- OBUF reads as a draw while OV = 0 (R25). -/
theorem readReg_obuf_of_not_ov {m : State} (noResult : m.ov = false) (i : Fin 8) : m.readReg (.obuf i) = .draw := by
  rw [State.readReg, noResult, cond_false]

/-- The window of a stage that is not built reads as draws (R32). -/
theorem readReg_tks_of_unbuilt {m : State} {s : Stage} (unbuilt : m.sv s = false) (r : Fin 16) (b : Fin 6) :
    m.readReg (.tks s r b) = .draw := by
  rw [State.readReg, unbuilt, cond_false]

/-- Settles O47: the values are those of `State.resetWith`; nothing of IBUF is written, OV is 0 and no stage is built. -/
theorem resetValues : Obligations.ResetValues :=
  ⟨rfl, rfl, rfl, rfl, rfl, rfl,
    fun _ => readReg_ibuf_of_unwritten (Vector.getElem_replicate _),
    readReg_obuf_of_not_ov (resetEngine_ov Config.formatKey State.reset),
    fun s => readReg_tks_of_unbuilt (resetEngine_sv Config.formatKey State.reset s)⟩

end Sys2Proof.Machine

/-! PROOFS. O41: the address map (20_memory.md R50, R51). -/

namespace Sys2Proof.Machine

/-- No register lies in a hole of the map: the register found there would have that offset (R51). -/
theorem regAt_hole {off : Nat}
    (hole : (0x018 ≤ off ∧ off ≤ 0x01F) ∨ (0x036 ≤ off ∧ off ≤ 0x0FF) ∨ 0x220 ≤ off) : regAt off = none := by
  by_contra mapped
  obtain ⟨reg, found⟩ := Option.ne_none_iff_exists'.mp mapped
  have at_off := offset_of_regAt found
  cases reg <;> simp only [Reg.offset] at at_off <;> omega

/-- No register is at two offsets (R51). -/
theorem regAt_injective {off off' : Nat} {reg : Reg} (found : regAt off = some reg) (found' : regAt off' = some reg) :
    off = off' :=
  (offset_of_regAt found).symm.trans (offset_of_regAt found')

/-- Settles O41: every register is found at its offset, and what is found at an offset has that offset. -/
theorem addressMap : Obligations.AddressMap :=
  ⟨fun i => (Nat.zero_add i.val).symm ▸ regAt_offset (.km i), fun i => regAt_offset (.ibuf i),
    fun i => regAt_offset (.obuf i), regAt_offset .blen, regAt_cmd, regAt_offset .status, regAt_offset .fcause,
    regAt_offset .finfo, regAt_offset .schst, fun s r b => regAt_offset (.tks s r b), fun _ => regAt_hole,
    fun _ _ _ => regAt_injective⟩

end Sys2Proof.Machine

/-! PROOFS. O42, O43: reads (20_memory.md R52; 10_state.md R24, R25, R27, R32). -/

namespace Sys2Proof.Machine

/-- The window of a stage that is built reads as the bytes of its subkeys (R32). -/
theorem readReg_tks_of_built {m : State} {s : Stage} (built : m.sv s = true) (r : Fin 16) (b : Fin 6) :
    m.readReg (.tks s r b) = .value (bytesOf 6 m.tks[s][r])[b] := by
  rw [State.readReg, built, cond_true]

/-- Settles O42: the values are those of `State.readReg`, where OV and SVs are bits of STATUS and SCHST. -/
theorem registersReadAsTheirValues : Obligations.RegistersReadAsTheirValues := fun m =>
  ⟨fun _ => rfl, fun _ => rfl, fun _ => rfl, rfl, rfl, rfl, rfl, rfl, rfl,
    fun _ r b unbuilt => readReg_tks_of_unbuilt unbuilt r b,
    fun s r b built => ⟨_, readReg_tks_of_built built r b,
      fun p => getMsbD_getElem_bytesOf m.tks[s][r] b.val b.isLt p.isLt⟩⟩

/-- Every register but CMD reads as a value or a draw (R52). -/
theorem readReg_value_or_draw (m : State) {reg : Reg} (notCmd : reg ≠ .cmd) :
    (∃ v, m.readReg reg = .value v) ∨ m.readReg reg = .draw := by
  cases reg with
  | cmd => exact absurd rfl notCmd
  | ibuf i => cases written : m.ibufWritten[i] <;> simp [State.readReg, written]
  | obuf i => cases valid : m.ov <;> simp [State.readReg, valid]
  | tks s r b => cases built : m.sv s <;> simp [State.readReg, built]
  | km i => exact .inl ⟨_, rfl⟩
  | blen => exact .inl ⟨_, rfl⟩
  | status => exact .inl ⟨_, rfl⟩
  | fcause => exact .inl ⟨_, rfl⟩
  | finfo => exact .inl ⟨_, rfl⟩
  | schst => exact .inl ⟨_, rfl⟩

/-- What a register reads as does not depend on the host's script. -/
@[simp] theorem readReg_withScript (m : State) (ops : List HostOp) (reg : Reg) :
    (m.withScript ops).readReg reg = m.readReg reg := rfl

/-- Every mapped offset lies in the address space (R50). -/
theorem le_lastOffset_of_regAt {off : Nat} {reg : Reg} (found : regAt off = some reg) : off ≤ lastOffset := by
  by_contra outside
  rw [lastOffset] at outside
  rw [regAt_hole (by omega)] at found
  cases found

/-- A read of a register that reads as a value gives the host that value. -/
theorem hostRead_value {m : State} {off : Nat} {reg : Reg} {v : Byte} (found : regAt off = some reg)
    (value : m.readReg reg = .value v) : hostRead off m = .next (m.answer v) := by
  simp [hostRead, (le_lastOffset_of_regAt found).not_gt, found, value]

/-- A read of a register that reads as a draw gives the host the next draw. -/
theorem hostRead_draw {m : State} {off : Nat} {reg : Reg} (found : regAt off = some reg)
    (draw : m.readReg reg = .draw) : hostRead off m = .next ((m.takeDraws 1).answer (Config.draw m.draws)) := by
  simp [hostRead, (le_lastOffset_of_regAt found).not_gt, found, draw]

/-- Taking a transaction from the script changes no register. -/
theorem State.SameRegisters.of_withScript {m t : State} {ops : List HostOp}
    (same : (m.withScript ops).SameRegisters t) : m.SameRegisters t :=
  ⟨same.km, same.ibuf, same.ibufWritten, same.obuf, same.blen, same.status, same.fcause, same.finfo, same.schst,
    same.tks⟩

/-- Settles O43: by what the register reads as, a value or a draw. -/
theorem readChangesNoRegister : Obligations.ReadChangesNoRegister := by
  intro m off reg rest script found notCmd
  have stepped : step m = hostRead off (m.withScript rest) := step_transact script
  obtain ⟨v, value⟩ | draw := readReg_value_or_draw m notCmd
  · have answered := hostRead_value found ((readReg_withScript m rest reg).trans value)
    exact ⟨_, stepped.trans answered, (hostRead_sameRegisters answered).of_withScript, rfl, .inl ⟨v, value, rfl, rfl⟩⟩
  · have answered := hostRead_draw found ((readReg_withScript m rest reg).trans draw)
    exact ⟨_, stepped.trans answered, (hostRead_sameRegisters answered).of_withScript, rfl, .inr ⟨draw, rfl, rfl⟩⟩

end Sys2Proof.Machine

/-! PROOFS. O44, O53: writes to KM, IBUF and BLEN, and no transaction at all (20_memory.md R53, R59). -/

namespace Sys2Proof.Machine

section
variable {m : State} {off : Nat} (running : m.flt = false) (run : Instr → State → Outcome) (v : Byte)
include running

/-- A write to KM[i] is stored (R53). -/
theorem hostWrite_km {i : Fin 24} (found : regAt off = some (.km i)) : hostWrite run off v m = .next (m.setKm i v) := by
  simp [hostWrite, (le_lastOffset_of_regAt found).not_gt, running, found]

/-- A write to IBUF[i] is stored, and the byte marked written (R53). -/
theorem hostWrite_ibuf {i : Fin 8} (found : regAt off = some (.ibuf i)) :
    hostWrite run off v m = .next (m.setIbuf i v) := by
  simp [hostWrite, (le_lastOffset_of_regAt found).not_gt, running, found]

/-- A write to BLEN is stored (R53). -/
theorem hostWrite_blen (found : regAt off = some .blen) : hostWrite run off v m = .next (m.setBlen v) := by
  simp [hostWrite, (le_lastOffset_of_regAt found).not_gt, running, found]

end

/-- Settles O44: each write is the one update of its register, on the state whose script has gone on. -/
theorem writeChangesOneByte : Obligations.WriteChangesOneByte := by
  intro m v rest running
  have running' : (m.withScript rest).flt = false := running
  refine ⟨fun i script => ?_, fun i script => ?_, fun script => ?_⟩
  · rw [Nat.zero_add] at script
    exact (step_transact script).trans (hostWrite_km running' exec v (regAt_offset (.km i)))
  · exact (step_transact script).trans (hostWrite_ibuf running' exec v (regAt_offset (.ibuf i)))
  · exact (step_transact script).trans (hostWrite_blen running' exec v (regAt_offset .blen))

/-- Settles O53: the engine waits. -/
theorem nothingChangesBetweenTransactions : Obligations.NothingChangesBetweenTransactions := fun _ idle => step_idle idle

end Sys2Proof.Machine

/-! PROOFS. O20 to O22: the fields of a command byte and of a command (30_encoding.md R70, R73, R74). -/

namespace Sys2Proof

/-! ### The fields of a byte (R70) -/

/-- A byte is its four fields OP, Z, DIR and STG. -/
theorem byte_eq_of_fields {c c' : Byte} (op : c.toNat / 16 = c'.toNat / 16) (z : c.getLsbD 3 = c'.getLsbD 3)
    (dir : c.getLsbD 2 = c'.getLsbD 2) (stg : c.toNat % 4 = c'.toNat % 4) : c = c' := by
  simp only [BitVec.getLsbD, Nat.testBit_eq_decide_div_mod_eq, decide_eq_decide] at z dir
  exact BitVec.eq_of_toNat_eq (by omega)

/-! ### The fields of a command (R71, R73) -/

/-- The OP field of a command's byte. -/
def Instr.opField : Instr → Nat
  | .ksb _ _ => 1
  | .tksb _ => 2
  | .bcr _ => 3
  | .tcr => 4
  | .tcx _ => 5

/-- The DIR bit of a command's byte; 0 where the command takes no direction. -/
def Instr.dirField : Instr → Bool
  | .ksb _ d => d.toBit
  | .tksb d => d.toBit
  | .bcr _ => false
  | .tcr => false
  | .tcx d => d.toBit

/-- The STG field of a command's byte; 0 where the command takes no stage. -/
def Instr.stgField : Instr → Nat
  | .ksb s _ => s.val
  | .tksb _ => 0
  | .bcr s => s.val
  | .tcr => 0
  | .tcx _ => 0

theorem decodeStage_map_ok {α : Type} {f : Stage → α} {stg : Nat} {a : α}
    (h : (decodeStage stg).map f = .ok a) : ∃ s : Stage, s.val = stg ∧ f s = a := by
  cases found : decodeStage stg with
  | error why => rw [found] at h; cases h
  | ok s => rw [found] at h; cases h; exact ⟨s, decodeStage_ok found, rfl⟩

/-- A command is decoded from its own fields only. -/
theorem fields_of_decodeFields {op stg : Nat} {dir : Bool} {i : Instr} (h : decodeFields op dir stg = .ok i) :
    i.opField = op ∧ i.dirField = dir ∧ i.stgField = stg := by
  unfold decodeFields at h
  split at h
  · -- KSB
    obtain ⟨s, rfl, rfl⟩ := decodeStage_map_ok h
    exact ⟨rfl, Dir.toBit_ofBit dir, rfl⟩
  · -- TKSB
    split at h
    · rename_i noStage
      cases h; exact ⟨rfl, Dir.toBit_ofBit dir, noStage.symm⟩
    · cases h
  · -- BCR
    split at h
    · cases h
    · rename_i noDir
      obtain ⟨s, rfl, rfl⟩ := decodeStage_map_ok h
      exact ⟨rfl, (Bool.eq_false_of_not_eq_true noDir).symm, rfl⟩
  · -- TCR
    split at h
    · cases h
    · rename_i noDir
      split at h
      · rename_i noStage
        cases h; exact ⟨rfl, (Bool.eq_false_of_not_eq_true noDir).symm, noStage.symm⟩
      · cases h
  · -- TCX
    split at h
    · rename_i noStage
      cases h; exact ⟨rfl, Dir.toBit_ofBit dir, noStage.symm⟩
    · cases h
  · -- no operation
    cases h

/-- The fields of a byte that decodes to a command are the command's, and its Z bit is 0. -/
theorem fields_of_decode {c : Byte} {i : Instr} (h : decode c = .ok i) :
    c.getLsbD 3 = false ∧ i.opField = c.toNat / 16 ∧ i.dirField = c.getLsbD 2 ∧ i.stgField = c.toNat % 4 := by
  unfold decode at h
  split at h
  · cases h
  · rename_i zClear
    obtain ⟨op, dir, stg⟩ := fields_of_decodeFields h
    refine ⟨Bool.eq_false_of_not_eq_true zClear, op.trans ?_, dir, stg.trans ?_⟩
    · rw [BitVec.extractLsb'_toNat, Nat.shiftRight_eq_div_pow]
      have := c.isLt
      omega
    · rw [BitVec.extractLsb'_toNat, Nat.shiftRight_zero]

/-- Two bytes that decode to one command are equal: they have its fields. -/
theorem decode_injective {c c' : Byte} {i : Instr} (h : decode c = .ok i) (h' : decode c' = .ok i) : c = c' := by
  obtain ⟨z, op, dir, stg⟩ := fields_of_decode h
  obtain ⟨z', op', dir', stg'⟩ := fields_of_decode h'
  exact byte_eq_of_fields (op.symm.trans op') (z.trans z'.symm) (dir.symm.trans dir') (stg.symm.trans stg')

/-- A byte decodes to a command exactly when it is the command's byte. -/
theorem decode_eq_ok_iff {c : Byte} {i : Instr} : decode c = .ok i ↔ encode i = c :=
  ⟨fun h => decode_injective (decode_encode i) h, fun h => h ▸ decode_encode i⟩

/-- Settles O21: a command's byte decodes to it, and two bytes that decode to one command have the same fields. -/
theorem decodeAndEncodeAgree : Obligations.DecodeAndEncodeAgree :=
  ⟨decode_encode, fun _ _ => decode_eq_ok_iff.mp⟩

/-- Settles O20: each byte, written out, is the encoding of its command. -/
theorem legalBytesDecode : Obligations.LegalBytesDecode :=
  ⟨decode_encode (.ksb 0 .enc), decode_encode (.ksb 1 .enc), decode_encode (.ksb 2 .enc), decode_encode (.ksb 0 .dec),
    decode_encode (.ksb 1 .dec), decode_encode (.ksb 2 .dec), decode_encode (.tksb .enc), decode_encode (.tksb .dec),
    decode_encode (.bcr 0), decode_encode (.bcr 1), decode_encode (.bcr 2), decode_encode .tcr,
    decode_encode (.tcx .enc), decode_encode (.tcx .dec)⟩

/-! ### The rows of the map (R73) -/

theorem Instr.row_mem_opcodeRows (i : Instr) : i.row ∈ opcodeRows := by
  cases i <;> simp [opcodeRows, Instr.row]

/-- A command's row selects its byte. -/
theorem row_selects_encode (i : Instr) : i.row.selects (encode i) = true := by
  cases i with
  | ksb s d => exact (Laws.OwnRow.ksb s d).1
  | tksb d => exact (Laws.OwnRow.tksb d).1
  | bcr s => exact (Laws.OwnRow.bcr s).1
  | tcr => exact Laws.OwnRow.tcr.1
  | tcx d => exact (Laws.OwnRow.tcx d).1

/-- A byte selects a row when it has the pattern under the mask and, for a row with a stage, a stage in STG. -/
theorem OpcodeRow.selects_iff {row : OpcodeRow} {c : Byte} : row.selects c = true ↔
    c &&& row.mask = row.pattern ∧ (row.takesStage = true → c &&& 0x03#8 ≠ 0x03#8) := by
  cases stage : row.takesStage <;> simp [OpcodeRow.selects, stage]

/-- A byte is its bits under a mask and its bits outside it. -/
theorem or_and_not_of_masked {c mask pattern : Byte} (h : c &&& mask = pattern) : pattern ||| (c &&& ~~~ mask) = c := by
  rw [← h, ← BitVec.and_or_distrib_left, BitVec.or_not_self, BitVec.and_allOnes]

/-- The DIR bit in its place is the field of its direction (R70). -/
theorem and_dirBit (c : Byte) : c &&& 0x04#8 = (Dir.ofBit (c.getLsbD 2)).field := by
  have bit : c &&& 0x04#8 = if c.getLsbD 2 then 0x04#8 else 0#8 := BitVec.and_twoPow c 2
  cases dir : c.getLsbD 2 <;> rw [bit, dir] <;> rfl

/-- The STG field in its place, when it is not 3, is a stage (R70). -/
theorem exists_stage_of_and_ne_three {c : Byte} (h : c &&& 0x03#8 ≠ 0x03#8) :
    ∃ s : Stage, BitVec.ofNat 8 s.val = c &&& 0x03#8 := by
  have le : (c &&& 0x03#8).toNat ≤ 3 := Nat.and_le_right
  have ne : (c &&& 0x03#8).toNat ≠ 3 := fun eq => h (BitVec.eq_of_toNat_eq eq)
  exact ⟨⟨(c &&& 0x03#8).toNat, by omega⟩, (BitVec.ofNat_toNat 8 _).trans (BitVec.setWidth_eq _)⟩

/-- The bits a row leaves open are those of the operands its command takes: a byte that selects a row is the byte of a
command. -/
theorem exists_encode_of_selects {row : OpcodeRow} {c : Byte} (mem : row ∈ opcodeRows) (h : row.selects c = true) :
    ∃ i, encode i = c := by
  obtain ⟨masked, stage⟩ := OpcodeRow.selects_iff.mp h
  simp only [opcodeRows, List.mem_cons, List.not_mem_nil, or_false] at mem
  have whole := or_and_not_of_masked masked
  obtain rfl | rfl | rfl | rfl | rfl := mem
  · obtain ⟨s, isStage⟩ := exists_stage_of_and_ne_three (stage rfl)
    refine ⟨.ksb s (Dir.ofBit (c.getLsbD 2)), ?_⟩
    rw [encode, isStage, ← and_dirBit, BitVec.or_assoc, ← BitVec.and_or_distrib_left]
    exact whole
  · refine ⟨.tksb (Dir.ofBit (c.getLsbD 2)), ?_⟩
    rw [encode, ← and_dirBit]
    exact whole
  · obtain ⟨s, isStage⟩ := exists_stage_of_and_ne_three (stage rfl)
    refine ⟨.bcr s, ?_⟩
    rw [encode, isStage]
    exact whole
  · exact ⟨.tcr, (BitVec.and_allOnes (x := c) ▸ masked).symm⟩
  · refine ⟨.tcx (Dir.ofBit (c.getLsbD 2)), ?_⟩
    rw [encode, ← and_dirBit]
    exact whole

/-- The legal bytes are the bytes of the commands (R73). -/
theorem legalCommandByte_iff {c : Byte} : legalCommandByte c = true ↔ ∃ i, encode i = c := by
  rw [legalCommandByte, List.any_eq_true]
  constructor
  · rintro ⟨row, mem, selected⟩
    exact exists_encode_of_selects mem selected
  · rintro ⟨i, rfl⟩
    exact ⟨i.row, i.row_mem_opcodeRows, row_selects_encode i⟩

/-! ### The illegal bytes (R74) -/

/-- A byte that decodes to no command is refused by name. -/
theorem decode_error_of_ne_ok {c : Byte} (h : ∀ i, decode c ≠ .ok i) : ∃ why, decode c = .error why := by
  cases decoded : decode c with
  | ok i => exact absurd decoded (h i)
  | error why => exact ⟨why, rfl⟩

/-- OP is one of 1 to 5. -/
theorem Instr.opField_mem (i : Instr) : 1 ≤ i.opField ∧ i.opField ≤ 5 := by cases i <;> simp [Instr.opField]

/-- STG is not 3. -/
theorem Instr.stgField_lt (i : Instr) : i.stgField < 3 := by
  cases i with
  | ksb s d => exact s.isLt
  | bcr s => exact s.isLt
  | tksb d => exact Nat.zero_lt_succ 2
  | tcr => exact Nat.zero_lt_succ 2
  | tcx d => exact Nat.zero_lt_succ 2

/-- DIR is 0 for BCR and TCR. -/
theorem Instr.dirField_of_opField {i : Instr} (h : i.opField = 3 ∨ i.opField = 4) : i.dirField = false := by
  cases i with
  | bcr s => rfl
  | tcr => rfl
  | ksb s d => simp [Instr.opField] at h
  | tksb d => simp [Instr.opField] at h
  | tcx d => simp [Instr.opField] at h

/-- STG is 0 for TKSB, TCR and TCX. -/
theorem Instr.stgField_of_opField {i : Instr} (h : i.opField = 2 ∨ i.opField = 4 ∨ i.opField = 5) :
    i.stgField = 0 := by
  cases i with
  | tksb d => rfl
  | tcr => rfl
  | tcx d => rfl
  | ksb s d => simp [Instr.opField] at h
  | bcr s => simp [Instr.opField] at h

/-- Settles O22: the legal bytes are the commands' bytes, and a byte of one of the classes has fields no command has. -/
theorem legalBytesAreTheMap : Obligations.LegalBytesAreTheMap := by
  refine ⟨fun c => ?_, by decide, fun c zSet => ?_, fun c op => ?_, fun c stg => ?_, fun c op dirSet => ?_,
    fun c op stg => ?_⟩
  · simp only [decode_eq_ok_iff, legalCommandByte_iff]
  all_goals
    refine decode_error_of_ne_ok fun i decoded => ?_
    obtain ⟨isZ, isOp, isDir, isStg⟩ := fields_of_decode decoded
  · exact Bool.false_ne_true (isZ.symm.trans zSet)
  · have := i.opField_mem
    omega
  · have := i.stgField_lt
    omega
  · exact Bool.false_ne_true (((i.dirField_of_opField (isOp ▸ op)).symm.trans isDir).trans dirSet)
  · exact stg (isStg.symm.trans (i.stgField_of_opField (isOp ▸ op)))

end Sys2Proof

/-! PROOFS. O23: a legal byte written to CMD (20_memory.md R53; 30_encoding.md R72). -/

namespace Sys2Proof.Machine

/-- A write to CMD executes the byte (R53). -/
theorem hostWrite_cmd {m : State} (running : m.flt = false) (run : Instr → State → Outcome) (v : Byte) {off : Nat}
    (found : regAt off = some .cmd) : hostWrite run off v m = executeCommand run v m := by
  simp [hostWrite, (le_lastOffset_of_regAt found).not_gt, running, found]

/-- A legal byte is executed as its command (R72). -/
theorem executeCommand_of_decode {c : Byte} {i : Instr} (decoded : decode c = .ok i)
    (run : Instr → State → Outcome) (m : State) : executeCommand run c m = run i m := by
  rw [executeCommand, decoded]

/-- A step whose transaction gives the engine a legal byte is `exec` of its command (R53, R72). -/
theorem step_commandOp {m : State} {c : Byte} {i : Instr} {rest : List HostOp}
    (script : m.script = commandOp c :: rest) (running : m.flt = false) (decoded : decode c = .ok i) :
    step m = exec i (m.withScript rest) :=
  calc step m = hostWrite exec (Reg.offset .cmd) c (m.withScript rest) := step_transact script
    _ = executeCommand exec c (m.withScript rest) := hostWrite_cmd ((withScript_flt m rest).trans running) exec c regAt_cmd
    _ = exec i (m.withScript rest) := executeCommand_of_decode decoded exec _

/-- A table word of eight bits that is read as a command is that command's byte. -/
theorem decode_tableByte {w : Nat} {i : Instr} (h : decodeTableWord 8 w = some i) : decode (tableByte 8 w) = .ok i := by
  rw [decodeTableWord, if_neg (by decide)] at h
  cases decoded : decode (tableByte 8 w) with
  | error why => rw [decoded] at h; cases h
  | ok j => rw [decoded] at h; cases h; rfl

/-- Settles O23: both are the step of a write to CMD; `withFetchWord` puts that write before the script it is taken from. -/
theorem stepRunsTheDecodedCommand : Obligations.StepRunsTheDecodedCommand :=
  ⟨fun _ _ _ _ script running decoded => step_commandOp script running decoded,
    fun m w _ _ running word =>
      step_commandOp (m := m.withFetchWord 8 w) rfl ((withScript_flt m _).trans running) (decode_tableByte word)⟩

end Sys2Proof.Machine

/-! PROOFS. O46: MVOI (30_encoding.md R77). -/

namespace Sys2Proof.Machine

/-- OBUF reads as its value when OV = 1 (R25). -/
theorem readReg_obuf_of_ov {m : State} (result : m.ov = true) (i : Fin 8) :
    m.readReg (.obuf i) = .value m.obuf[i] := by
  rw [State.readReg, result, cond_true]

/-- A step that reads a byte of a result (R52). -/
theorem step_read_obuf {m : State} {i : Fin 8} {rest : List HostOp}
    (script : m.script = .read (Reg.offset (.obuf i)) :: rest) (result : m.ov = true) :
    step m = .next ((m.withScript rest).answer m.obuf[i]) :=
  (step_transact script).trans
    (hostRead_value (regAt_offset (.obuf i)) ((readReg_withScript m rest _).trans (readReg_obuf_of_ov result i)))

/-- A step that writes the byte read last to IBUF[i] (R53, R77). -/
theorem step_writeBack_ibuf {m : State} {i : Fin 8} {v : Byte} {rest : List HostOp}
    (script : m.script = .writeBack (Reg.offset (.ibuf i)) :: rest) (last : m.reads.getLast? = some v)
    (running : m.flt = false) : step m = .next ((m.withScript rest).setIbuf i v) := by
  rw [step_transact script]
  simp only [transact, withScript_reads, last]
  exact hostWrite_ibuf ((withScript_flt m rest).trans running) exec v (regAt_offset (.ibuf i))

/-- The two transactions of MVOI for each byte of `l`, in order (R77). -/
def copyScript (l : List (Fin 8)) : List HostOp :=
  l.flatMap fun i => [.read (Reg.offset (.obuf i)), .writeBack (Reg.offset (.ibuf i))]

/-- The state with the bytes of `l` copied from OBUF to IBUF, each read by the host on its way. -/
def State.copied (m : State) (l : List (Fin 8)) : State :=
  { m with
    ibuf := Vector.ofFn fun j => if j ∈ l then m.obuf[j] else m.ibuf[j]
    ibufWritten := Vector.ofFn fun j => decide (j ∈ l) || m.ibufWritten[j]
    reads := m.reads ++ l.map fun i => m.obuf[i] }

/-- MVOI is the copy of all eight bytes. -/
theorem moveOutputToInput_eq_copyScript : moveOutputToInput = copyScript (List.finRange 8) := rfl

theorem copied_nil (m : State) : m.copied [] = m := by
  simp [State.copied]

/-- Copying one byte and then others is copying them all: a byte copied twice gets the same value. -/
theorem copied_cons (m : State) (i : Fin 8) (l : List (Fin 8)) :
    ((m.answer m.obuf[i]).setIbuf i m.obuf[i]).copied l = m.copied (i :: l) := by
  refine State.eq_of_fields rfl ?_ rfl rfl rfl rfl rfl rfl rfl ?_ rfl rfl ?_
  · refine Vector.ext fun j _ => ?_
    by_cases same : i.val = j <;> simp [State.copied, Fin.ext_iff, same, eq_comm]
  · refine Vector.ext fun j _ => ?_
    by_cases same : i.val = j <;> simp [State.copied, Fin.ext_iff, same, eq_comm]
  · simp [State.copied]

/-- The copying transactions, two for each byte, copy the bytes and leave the rest of the script. -/
theorem run_copyScript (l : List (Fin 8)) {m : State} {rest : List HostOp} (script : m.script = copyScript l ++ rest)
    (running : m.flt = false) (result : m.ov = true) :
    core.run (2 * l.length) m = .next ((m.copied l).withScript rest) := by
  induction l generalizing m with
  | nil =>
    obtain rfl : m.script = rest := script
    rw [copied_nil]
    rfl
  | cons i l ih =>
    have read := step_read_obuf script result
    have wrote := step_writeBack_ibuf (m := (m.withScript _).answer m.obuf[i]) (i := i) (v := m.obuf[i])
      (rest := copyScript l ++ rest) rfl (by simp) (by simpa using running)
    calc core.run (2 * (i :: l).length) m
      _ = core.run (2 * l.length + 1) _ := core_run_succ read
      _ = core.run (2 * l.length) _ := core_run_succ wrote
      _ = .next ((State.copied _ l).withScript rest) := ih rfl (by simpa using running) (by simpa using result)
      _ = .next ((m.copied (i :: l)).withScript rest) := by rw [← copied_cons]; rfl

/-- Copying all eight bytes copies the block. -/
theorem copied_finRange (m : State) : m.copied (List.finRange 8) =
    { m with
      ibuf := m.obuf, ibufWritten := Vector.replicate 8 true, reads := m.reads ++ m.obuf.toList } := by
  have block : (List.finRange 8).map (fun i => m.obuf[i]) = m.obuf.toList := List.ext_getElem (by simp) (by simp)
  have ibuf : Vector.ofFn (fun j : Fin 8 => m.obuf[j]) = m.obuf := Vector.ext (by simp)
  have written : Vector.ofFn (fun _ : Fin 8 => true) = Vector.replicate 8 true := Vector.ext (by simp)
  simp only [State.copied, List.mem_finRange, if_true, decide_true, Bool.true_or, block, ibuf, written]

/-- Settles O46, by induction on the bytes still to be copied; the copy of all eight is the whole block. -/
theorem moveOutputToInputCopiesTheBlock : Obligations.MoveOutputToInputCopiesTheBlock := by
  intro m rest running result script
  rw [moveOutputToInput_eq_copyScript] at script
  have copied := run_copyScript (List.finRange 8) script running result
  rw [copied_finRange] at copied
  exact copied

end Sys2Proof.Machine

/-! PROOFS. O1: the primitives on single bits (40_bitfield_permutation.md R100 to R102). -/

namespace Sys2Proof.Machine

/-- A bit as a number is what shifting it to the bottom and keeping the last binary digit gives. -/
theorem toNat_getLsbD {w : Nat} (v : BitVec w) (i : Nat) : (v.getLsbD i).toNat = (v.toNat >>> i) % 2 := by
  rw [BitVec.getLsbD, Nat.toNat_testBit, Nat.shiftRight_eq_div_pow]

/-- `getBit32` reads the positions of its word (R101). -/
theorem getBit32_eq_getMsbD (w : BitVec 32) {p : Nat} (hp : p < 32) : getBit32 w p = w.getMsbD p := by
  simp [getBit32, BitVec.getMsbD_eq_getLsbD, hp]

/-- A placed bit stands at its destination, and every other position is 0 (R102). -/
theorem getMsbD_placeBit (b : Bool) (d : Nat) {p : Nat} (hp : p < 64) :
    (placeBit b d).getMsbD p = if p = d then b else false := by
  simp [placeBit, hp]

/-- Placing a 0 places nothing (R102). -/
theorem placeBit_false (d : Nat) : placeBit false d = 0#64 :=
  BitVec.eq_of_getMsbD_eq fun p hp => by rw [getMsbD_placeBit _ _ hp, ite_self, BitVec.getMsbD_zero]

/-- Bits placed at distinct destinations are disjoint (R102). -/
theorem placeBit_and_placeBit (b b' : Bool) {d d' : Nat} (distinct : d ≠ d') :
    placeBit b d &&& placeBit b' d' = 0#64 := by
  refine BitVec.eq_of_getMsbD_eq fun p hp => ?_
  rw [BitVec.getMsbD_and, getMsbD_placeBit _ _ hp, getMsbD_placeBit _ _ hp, BitVec.getMsbD_zero]
  by_cases first : p = d
  · have second : p ≠ d' := first ▸ distinct
    rw [if_neg second, Bool.and_false]
  · rw [if_neg first, Bool.false_and]

/-- Disjoint vectors have the same OR and exclusive-or. -/
theorem or_eq_xor_of_and_eq_zero {w : Nat} {x y : BitVec w} (disjoint : x &&& y = 0#w) : x ||| y = x ^^^ y := by
  refine BitVec.eq_of_getMsbD_eq fun p hp => ?_
  have apart : (x.getMsbD p && y.getMsbD p) = false := by
    rw [← BitVec.getMsbD_and, disjoint, BitVec.getMsbD_zero]
  rw [BitVec.getMsbD_or, BitVec.getMsbD_xor]
  cases first : x.getMsbD p with
  | false => rw [Bool.false_or, Bool.false_xor]
  | true =>
    have second : y.getMsbD p = false := by simpa [first] using apart
    rw [second, Bool.or_false, Bool.xor_false]

/-- Settles O1: each primitive is its positions; OR, exclusive-or and addition agree because placed bits are disjoint. -/
theorem primitivesReadAndPlaceOneBit : Obligations.PrimitivesReadAndPlaceOneBit := by
  refine ⟨fun n bytes p inside => ⟨?_, ?_⟩, fun w p hp => ⟨toNat_getLsbD w _, (getBit32_eq_getMsbD w hp).symm⟩,
    fun b d _ hp => getMsbD_placeBit b d hp, placeBit_false, fun b b' d d' _ _ distinct => ?_⟩
  · rw [getBit, byteAt_of_lt bytes inside, toNat_getLsbD]
  · have inRange : p < 8 * n := by omega
    rw [getMsbD_bitsOf, decide_eq_true inRange, Bool.true_and]
  · have disjoint := placeBit_and_placeBit b b' distinct
    exact ⟨disjoint, or_eq_xor_of_and_eq_zero disjoint, (BitVec.add_eq_or_of_and_eq_zero _ _ disjoint).symm⟩

end Sys2Proof.Machine

/-! PROOFS. O2: the permutation network (40_bitfield_permutation.md R103). -/

namespace Sys2Proof.Machine

/-- A position of a running OR is set when it is set at the start or in one of the vectors joined. -/
theorem getMsbD_foldl_or {α : Type} {w : Nat} (f : α → BitVec w) (l : List α) (acc : BitVec w) (p : Nat) :
    (l.foldl (fun acc i => acc ||| f i) acc).getMsbD p = (acc.getMsbD p || l.any fun i => (f i).getMsbD p) := by
  induction l generalizing acc with
  | nil => rw [List.foldl_nil, List.any_nil, Bool.or_false]
  | cons i l ih => rw [List.foldl_cons, ih, BitVec.getMsbD_or, List.any_cons, Bool.or_assoc]

/-- Of the bits placed at the destinations `0..n-1`, the one at `p` decides position `p` (R102). -/
theorem any_getMsbD_placeBit {n : Nat} (b : Fin n → Bool) {p : Nat} (hp : p < n) (fits : n ≤ 64) :
    ((List.finRange n).any fun i => (placeBit (b i) i.val).getMsbD p) = b ⟨p, hp⟩ := by
  simp only [getMsbD_placeBit _ _ (Nat.lt_of_lt_of_le hp fits)]
  rw [Bool.eq_iff_iff, List.any_eq_true]
  constructor
  · rintro ⟨i, -, set⟩
    obtain ⟨rfl, bit⟩ : p = i.val ∧ b i = true := by simpa using set
    exact bit
  · intro bit
    exact ⟨⟨p, hp⟩, List.mem_finRange _, by simpa using bit⟩

/-- `Permute` as the OR of placed bits, kept to its width (R103, R102). -/
theorem permute_eq_or_of_placed {m n : Nat} (table : Vector (Fin m) n) (v : BitVec m) (fits : n ≤ 64) :
    permute table v =
      slice ((List.finRange n).foldl (fun acc i => acc ||| placeBit (v.getMsbD table[i].val) i.val) 0#64) 0 n := by
  refine BitVec.eq_of_getMsbD_eq fun p hp => ?_
  have placed := any_getMsbD_placeBit (fun i => v.getMsbD table[i].val) hp fits
  rw [getMsbD_permute _ _ _ hp, getMsbD_slice, decide_eq_true hp, Bool.true_and, Nat.zero_add, getMsbD_foldl_or,
    BitVec.getMsbD_zero, Bool.false_or, placed]
  rfl

/-- `Permute` is linear over exclusive-or (R103). -/
theorem permute_xor {m n : Nat} (table : Vector (Fin m) n) (v v' : BitVec m) :
    permute table (v ^^^ v') = permute table v ^^^ permute table v' :=
  BitVec.eq_of_getMsbD_eq fun p hp => by simp [getMsbD_permute _ _ _ hp]

/-- `Permute` of the all-zero vector is all-zero (R103). -/
theorem permute_zero {m n : Nat} (table : Vector (Fin m) n) : permute table 0#m = 0#n :=
  BitVec.eq_of_getMsbD_eq fun p hp => by simp [getMsbD_permute _ _ _ hp]

/-- `Permute` of the all-one vector is all-one (R103): every entry is a position of the source. -/
theorem permute_allOnes {m n : Nat} (table : Vector (Fin m) n) :
    permute table (BitVec.allOnes m) = BitVec.allOnes n :=
  BitVec.eq_of_getMsbD_eq fun p hp => by simp [getMsbD_permute _ _ _ hp, hp]

/-- Settles O2: position by position, by the law that `Permute` selects positions. -/
theorem permuteSelectsPositions : Obligations.PermuteSelectsPositions := fun _ _ table v =>
  ⟨getMsbD_permute table v, permute_eq_or_of_placed table v, permute_xor table v, permute_zero table,
    permute_allOnes table⟩

end Sys2Proof.Machine

/-! PROOFS. O3: the inverse of a permutation (40_bitfield_permutation.md R104). -/

namespace Sys2Proof.Machine

/-- The entry of a bijection `T` at `Inverse(T)[p]` is `p` (R104): `p` is some `T[i]`, and `Inverse(T)` finds that `i`. -/
theorem at_inverse {n : Nat} (table : Vector (Fin n) n) (nodup : table.toList.Nodup) (p : Fin n) :
    table[(inverse table)[p]] = p := by
  obtain ⟨i, hi, rfl⟩ := exists_entry table nodup p
  exact congrArg (fun j : Fin n => table[j]) (inverse_at table nodup i hi)

/-- Permuting by `T` and then by `U` changes nothing when `T[U[p]] = p` at every position. -/
theorem permute_permute_eq_self {m n : Nat} {table : Vector (Fin n) m} {back : Vector (Fin m) n}
    (undoes : ∀ p : Fin n, table[back[p]] = p) (v : BitVec n) : permute back (permute table v) = v := by
  refine BitVec.eq_of_getMsbD_eq fun p hp => ?_
  have entry : table[back[p].val] = ⟨p, hp⟩ := undoes ⟨p, hp⟩
  rw [getMsbD_permute _ _ _ hp, getMsbD_permute _ _ _ back[p].isLt, entry]

/-- Settles O3: a bijection and its inverse undo each other entry by entry, and so as permutations. -/
theorem inverseUndoesPermute : Obligations.InverseUndoesPermute := fun _ table nodup =>
  have left (i : Fin _) : (inverse table)[table[i]] = i := inverse_at table nodup i.val i.isLt
  ⟨left, permute_permute_eq_self (at_inverse table nodup), permute_permute_eq_self left⟩

end Sys2Proof.Machine

/-! PROOFS. O5: the rotation walk (41_key_schedule.md R131, R132, R135). -/

namespace Sys2Proof.Machine

/-- Position `j` of a permuted byte sequence is the bit of the key its table selects (R131, R103). -/
theorem getMsbD_permute_bitsOf {n : Nat} (table : Vector (Fin 64) n) (key : Block) {j : Nat} (hj : j < n) :
    (permute table (bitsOf 64 key)).getMsbD j = getBit key table[j].val := by
  rw [getMsbD_permute _ _ _ hj, getMsbD_bitsOf, decide_eq_true table[j].isLt, Bool.true_and]

/-- Whole turns of the 28-bit halves leave them as they are (R135). -/
theorem KeyHalves.rotate_eq_self_of_dvd (h : KeyHalves) {k : Nat} (whole : 28 ∣ k) : h.rotate k = h := by
  obtain ⟨turns, rfl⟩ := whole
  have turn (x : BitVec 28) : x.rotateLeft (28 * turns) = x := BitVec.eq_of_getMsbD_eq fun p hp => by
    rw [BitVec.getMsbD_rotateLeft, decide_eq_true hp, Bool.true_and, Nat.mul_add_mod, Nat.mod_eq_of_lt hp]
  rw [KeyHalves.rotate, turn, turn]

/-- The halves a walk over any rounds leaves: the first ones, rotated by the sum of those rounds' amounts (R132). -/
theorem foldl_walkStep_halves (t : Tables) (dir : Dir) (rounds : List (Fin 16)) (acc : KeyHalves × KeySchedule) :
    (rounds.foldl (walkStep t dir) acc).1 = acc.1.rotate (rounds.map fun i => tRot[i]).sum := by
  induction rounds generalizing acc with
  | nil => exact (acc.1.rotate_eq_self_of_dvd (Nat.dvd_zero 28)).symm
  | cons i rounds ih =>
    rw [List.foldl_cons, ih, List.map_cons, List.sum_cons, ← KeyHalves.rotate_rotate]
    rfl

/-- R135: the sixteen amounts sum to 28, so the halves after the walk are the initial ones. -/
theorem walk_halves (t : Tables) (dir : Dir) (h : KeyHalves) (ks : KeySchedule) :
    ((List.finRange 16).foldl (walkStep t dir) (h, ks)).1 = h := by
  have total : ((List.finRange 16).map fun i => tRot[i]).sum = 28 := by decide
  rw [foldl_walkStep_halves, total]
  exact h.rotate_eq_self_of_dvd (Nat.dvd_refl 28)

/-- The cumulative amounts of T_ROT (R132, R135). -/
theorem turnedBy_eq (i : Fin 16) :
    turnedBy i = (#v[1, 2, 4, 6, 8, 10, 12, 14, 15, 17, 19, 21, 23, 25, 27, 28] : Vector Nat 16)[i] := by
  revert i; decide

/-- Settles O5: the halves accumulate their rotations, and sixteen rounds make one whole turn. -/
theorem scheduleFollowsTheRotationWalk : Obligations.ScheduleFollowsTheRotationWalk := by
  intro t key
  refine ⟨fun j => ⟨getMsbD_permute_bitsOf t.pc1c key j.isLt, getMsbD_permute_bitsOf t.pc1d key j.isLt⟩, ?_,
    walk_halves t .enc _ _, ?_⟩
  · rintro i total rfl
    rw [← turnedBy_eq]
    exact keySchedule_getElem t key .enc i
  · have wholeTurn : (splitKey t key).rotate (turnedBy 15) = splitKey t key :=
      (splitKey t key).rotate_eq_self_of_dvd (by decide)
    have last : (keySchedule t key .enc)[15] = compress t ((splitKey t key).rotate (turnedBy 15)) :=
      keySchedule_getElem t key .enc ⟨15, by decide⟩
    rw [last, wholeTurn]
    rfl

end Sys2Proof.Machine

/-! PROOFS. O6: the two directions of a schedule (41_key_schedule.md R134). -/

namespace Sys2Proof.Machine

/-- The opposite direction stores each subkey at the mirrored index (R132). -/
theorem storeIndex_opposite (dir : Dir) (r : Fin 16) :
    storeIndex dir.opposite r = storeIndex dir ⟨15 - r.val, by omega⟩ := by
  cases dir with
  | enc => rfl
  | dec => exact (storeIndex_storeIndex .dec r).symm

/-- The schedule of the opposite direction is the reversed one, whichever direction is first (R134). -/
theorem keySchedule_opposite_getElem (t : Tables) (key : Block) (dir : Dir) (r : Fin 16) :
    (keySchedule t key dir.opposite)[r] = (keySchedule t key dir)[15 - r.val] := by
  rw [keySchedule_getElem, storeIndex_opposite]
  exact (keySchedule_getElem t key dir ⟨15 - r.val, by omega⟩).symm

/-- Settles O6: DEC is the opposite of ENC. -/
theorem decryptScheduleIsReversed : Obligations.DecryptScheduleIsReversed := fun t key r =>
  keySchedule_opposite_getElem t key .enc r

end Sys2Proof.Machine

/-! PROOFS. O7: the key bits a schedule depends on (41_key_schedule.md R131, R133). -/

namespace Sys2Proof.Machine

/-- Keys that agree where a table selects are permuted alike (R103). -/
theorem permute_bitsOf_congr {n : Nat} {table : Vector (Fin 64) n} {key key' : Block}
    (agree : ∀ p ∈ table.toList, getBit key p.val = getBit key' p.val) :
    permute table (bitsOf 64 key) = permute table (bitsOf 64 key') :=
  BitVec.eq_of_getMsbD_eq fun j hj => by
    rw [getMsbD_permute_bitsOf _ _ hj, getMsbD_permute_bitsOf _ _ hj]
    exact agree _ (Vector.mem_toList_iff.mpr (Vector.getElem_mem hj))

/-- A schedule depends on the key only through the initial halves (R131). -/
theorem keySchedule_congr {t : Tables} {key key' : Block} (halves : splitKey t key = splitKey t key') (dir : Dir) :
    keySchedule t key dir = keySchedule t key' dir := by
  rw [keySchedule, keySchedule, halves]

/-- Settles O7: the two keys have the same initial halves. -/
theorem omittedKeyBitsDoNotMatter : Obligations.OmittedKeyBitsDoNotMatter := by
  intro t key key' agree dir
  refine keySchedule_congr ?_ dir
  rw [splitKey, splitKey, permute_bitsOf_congr fun p selected => agree p (.inl selected),
    permute_bitsOf_congr fun p selected => agree p (.inr selected)]

end Sys2Proof.Machine

/-! PROOFS. O8: constant key halves (41_key_schedule.md R137). -/

namespace Sys2Proof.Machine

/-- A vector with one value at every position is left as it is by any rotation. -/
theorem rotateLeft_eq_self_of_constant {w : Nat} {x : BitVec w} {a : Bool} (constant : ∀ p < w, x.getMsbD p = a)
    (k : Nat) : x.rotateLeft k = x :=
  BitVec.eq_of_getMsbD_eq fun p hp => by
    have source : (k + p) % w < w := Nat.mod_lt _ (Nat.zero_lt_of_lt hp)
    rw [BitVec.getMsbD_rotateLeft, decide_eq_true hp, Bool.true_and, constant _ source, constant p hp]

/-- A table that selects only bits of one value makes a vector that no rotation changes. -/
theorem rotateLeft_permute_of_constant {n : Nat} {table : Vector (Fin 64) n} {key : Block} {a : Bool}
    (constant : ∀ x ∈ table.toList, getBit key x.val = a) (k : Nat) :
    (permute table (bitsOf 64 key)).rotateLeft k = permute table (bitsOf 64 key) :=
  rotateLeft_eq_self_of_constant (a := a) (fun p hp => by
    rw [getMsbD_permute_bitsOf _ _ hp]
    exact constant _ (Vector.mem_toList_iff.mpr (Vector.getElem_mem hp))) k

/-- R137(a): under constant halves every subkey, in both directions, is the compression of the initial halves. -/
theorem keySchedule_getElem_of_constant {t : Tables} {key : Block} {a b : Bool}
    (c : ∀ x ∈ t.pc1c.toList, getBit key x.val = a) (d : ∀ x ∈ t.pc1d.toList, getBit key x.val = b)
    (dir : Dir) (r : Fin 16) : (keySchedule t key dir)[r] = compress t (splitKey t key) := by
  rw [keySchedule_getElem, KeyHalves.rotate, splitKey, rotateLeft_permute_of_constant c,
    rotateLeft_permute_of_constant d]

/-- Every bit of eight equal bytes is a bit of that byte. -/
theorem getBit_replicate (b : Byte) {p : Nat} (hp : p < 64) : getBit (Vector.replicate 8 b) p = b.getMsbD (p % 8) := by
  have inside : p / 8 < 8 := by omega
  rw [getBit_eq_getMsbD, byteAt_of_lt _ inside, Vector.getElem_replicate]

/-- The all-zero key (R137(b)). -/
theorem getBit_zeros {p : Nat} (hp : p < 64) : getBit (Vector.replicate 8 0x00#8) p = false := by
  rw [getBit_replicate _ hp, BitVec.getMsbD_zero]

/-- The all-one key (R137(b)). -/
theorem getBit_ones {p : Nat} (hp : p < 64) : getBit (Vector.replicate 8 0xFF#8) p = true := by
  have low : p % 8 < 8 := Nat.mod_lt _ (by decide)
  have ones : 0xFF#8 = BitVec.allOnes 8 := rfl
  rw [getBit_replicate _ hp, ones, BitVec.getMsbD_allOnes, decide_eq_true low]

/-- The subkey of the all-zero key (R137(b)). -/
theorem compress_splitKey_zeros (t : Tables) : compress t (splitKey t (Vector.replicate 8 0x00#8)) = 0#48 := by
  have bits : bitsOf 64 (Vector.replicate 8 0x00#8) = 0#64 := BitVec.eq_of_getMsbD_eq fun p hp => by
    rw [getMsbD_bitsOf, getBit_zeros hp, Bool.and_false, BitVec.getMsbD_zero]
  have joined : 0#28 ++ 0#28 = 0#56 := by decide
  rw [compress, splitKey, bits, permute_zero, permute_zero, joined, permute_zero]

/-- The subkey of the all-one key (R137(b)). -/
theorem compress_splitKey_ones (t : Tables) :
    compress t (splitKey t (Vector.replicate 8 0xFF#8)) = BitVec.allOnes 48 := by
  have bits : bitsOf 64 (Vector.replicate 8 0xFF#8) = BitVec.allOnes 64 := BitVec.eq_of_getMsbD_eq fun p hp => by
    rw [getMsbD_bitsOf, getBit_ones hp, Bool.and_true, BitVec.getMsbD_allOnes]
  have joined : BitVec.allOnes 28 ++ BitVec.allOnes 28 = BitVec.allOnes 56 := by decide
  rw [compress, splitKey, bits, permute_allOnes, permute_allOnes, joined, permute_allOnes]

/-- Settles O8: all subkeys are the one of the initial halves; `Permute` keeps a constant key constant. -/
theorem constantHalvesGiveOneSubkey : Obligations.ConstantHalvesGiveOneSubkey := by
  refine ⟨fun t key a b dir c d => ⟨fun r r' => ?_, Vector.ext fun r hr => ?_⟩, fun t dir r => ⟨?_, ?_⟩⟩
  · rw [keySchedule_getElem_of_constant c d, keySchedule_getElem_of_constant c d]
  · exact (keySchedule_getElem_of_constant c d .enc ⟨r, hr⟩).trans
      (keySchedule_getElem_of_constant c d .dec ⟨r, hr⟩).symm
  · rw [keySchedule_getElem_of_constant (fun x _ => getBit_zeros x.isLt) (fun x _ => getBit_zeros x.isLt),
      compress_splitKey_zeros]
  · rw [keySchedule_getElem_of_constant (fun x _ => getBit_ones x.isLt) (fun x _ => getBit_ones x.isLt),
      compress_splitKey_ones]

end Sys2Proof.Machine

/-! PROOFS. O9: the triple schedule (41_key_schedule.md R139). -/

namespace Sys2Proof.Machine

/-- The eight bytes of a stage are its key (R23, R71). -/
theorem stageKey_eq {km : KeyMaterial} {s : Stage} {key : Block}
    (bytes : ∀ i : Fin 8, key[i] = km[8 * s.val + i.val]'(by omega)) : stageKey km s = key :=
  Vector.ext fun i hi => by
    rw [stageKey, Vector.getElem_ofFn]
    exact (bytes ⟨i, hi⟩).symm

/-- One stage of the triple schedule: its own key, stage B in the opposite direction (R139). -/
theorem tripleSchedule_getElem (t : Tables) (km : KeyMaterial) (dir : Dir) (s : Stage) :
    (tripleSchedule t km dir)[s] = keySchedule t (stageKey km s) (if s = 1 then dir.opposite else dir) := by
  match s with
  | 0 => rfl
  | 1 => rfl
  | 2 => rfl

/-- The other direction turns the direction of every stage around, stage B's too (R139). -/
theorem stageDirection_opposite (dir : Dir) (s : Stage) :
    (if s = 1 then dir.opposite.opposite else dir.opposite) = (if s = 1 then dir.opposite else dir).opposite :=
  (apply_ite Dir.opposite (s = 1) dir.opposite dir).symm

/-- Settles O9: each stage is one build, and turning the direction around reverses each of the three. -/
theorem tripleScheduleDirections : Obligations.TripleScheduleDirections := by
  refine fun t km dir s => ⟨fun key bytes => ?_, fun r => ?_⟩
  · rw [tripleSchedule_getElem, stageKey_eq bytes]
  · have turned := stageDirection_opposite .enc s
    rw [tripleSchedule_getElem t km .dec, tripleSchedule_getElem t km .enc]
    exact (congrArg (fun d => (keySchedule t (stageKey km s) d)[r]) turned).trans
      (keySchedule_opposite_getElem t (stageKey km s) _ r)

end Sys2Proof.Machine

/-! PROOFS. O25: the command KSB (41_key_schedule.md R140). -/

namespace Sys2Proof.Machine

/-- A direction as its bit (R14). -/
theorem beq_dec_eq_toBit (d : Dir) : (d == .dec) = d.toBit := by cases d <;> rfl

/-- A build writes the schedule of its own stage and leaves the others (R140). -/
theorem storeSchedule_tks_getElem (m : State) (s : Stage) (d : Dir) (ks : KeySchedule) (k : Stage) :
    (m.storeSchedule s d ks).tks[k] = if k = s then ks else m.tks[k] := by
  simp only [storeSchedule_tks, Fin.getElem_fin, Vector.getElem_set, Fin.ext_iff, eq_comm]

/-- Settles O25: one schedule is stored and its stage marked; the rest is the frame of that update. -/
theorem ksbBuildsOneStage : Obligations.KsbBuildsOneStage := by
  intro s d m key bytes
  refine ⟨_, exec_ksb s d m, ?_, ?_, ?_, fun k other => ⟨?_, ?_, ?_⟩, withBuilt_reserved s d m.schst,
    storeSchedule_sameInputs m s d _, storeSchedule_sameOutput m s d _, storeSchedule_sameFault m s d _,
    storeSchedule_status m s d _⟩
  · rw [storeSchedule_tks_getElem, if_pos rfl, stageKey_eq bytes]
  · rw [storeSchedule_sv, decide_eq_true rfl, Bool.or_true]
  · rw [storeSchedule_sd, if_pos rfl, beq_dec_eq_toBit]
  · rw [storeSchedule_tks_getElem, if_neg other]
  · rw [storeSchedule_sv, decide_eq_false other, Bool.or_false]
  · rw [storeSchedule_sd, if_neg other]

end Sys2Proof.Machine

/-! PROOFS. O26: the command TKSB (41_key_schedule.md R141). -/

namespace Sys2Proof.Machine

/-- SCHST is its reserved bits, its three SV and its three SD (R31). -/
theorem schst_ext {x y : Byte} (reserved : x &&& 0x88#8 = y &&& 0x88#8)
    (valid : ∀ s : Stage, x.getLsbD s.val = y.getLsbD s.val)
    (direction : ∀ s : Stage, x.getLsbD (4 + s.val) = y.getLsbD (4 + s.val)) : x = y := by
  refine BitVec.eq_of_getLsbD_eq fun i hi => ?_
  have reservedBit := congrArg (fun v => v.getLsbD i) reserved
  rcases (by omega : i < 3 ∨ (4 ≤ i ∧ i < 7) ∨ i = 3 ∨ i = 7) with isValid | ⟨low, high⟩ | rfl | rfl
  · exact valid ⟨i, isValid⟩
  · have isDirection := direction ⟨i - 4, by omega⟩
    rwa [Nat.add_sub_cancel' low] at isDirection
  · simpa using reservedBit
  · simpa using reservedBit

/-- SD1 is `not d`, the others are `d` (R141). -/
theorem buildAll_sd_eq_toBit (t : Tables) (d : Dir) (m : State) (k : Stage) :
    (m.buildAll t d).sd k = (if k = 1 then d.opposite else d).toBit := by
  rw [buildAll_sd, ← beq_dec_eq_toBit, apply_ite (· == Dir.dec)]

/-- SCHST after a build of all stages (R141): the old reserved bits, every SV, and the directions. -/
theorem buildAll_schst_eq {m : State} {d : Dir} {c : Byte} (t : Tables) (reserved : c &&& 0x88#8 = m.schst &&& 0x88#8)
    (valid : ∀ k : Stage, c.getLsbD k.val = true)
    (direction : ∀ k : Stage, c.getLsbD (4 + k.val) = (if k = 1 then d.opposite else d).toBit) :
    (m.buildAll t d).schst = c :=
  schst_ext ((buildAll_reserved t d m).trans reserved.symm)
    (fun k => (buildAll_sv t d m k).trans (valid k).symm)
    (fun k => (buildAll_sd_eq_toBit t d m k).trans (direction k).symm)

/-- Settles O26: the command is the build of all stages. -/
theorem tksbBuildsAllStages : Obligations.TksbBuildsAllStages := by
  intro d m
  refine ⟨_, exec_tksb d m, buildAll_tks _ d m, buildAll_reserved _ d m, fun zero => ?_,
    fun k => ⟨buildAll_sv _ d m k, buildAll_sd_eq_toBit _ d m k⟩, buildAll_sameInputs m _ d,
    buildAll_sameOutput m _ d, buildAll_sameFault m _ d, buildAll_status _ d m⟩
  cases d with
  | enc => exact buildAll_schst_eq (c := 0x27#8) _ zero.symm (by decide) (by decide)
  | dec => exact buildAll_schst_eq (c := 0x57#8) _ zero.symm (by decide) (by decide)

end Sys2Proof.Machine

/-! PROOFS. O27: TKSB as three KSB (41_key_schedule.md R140, R141). -/

namespace Sys2Proof.Machine

/-- Marks of two different stages do not touch each other (R31). -/
theorem withBuilt_comm {a b : Stage} (distinct : a ≠ b) (d e : Dir) (schst : Byte) :
    withBuilt b e (withBuilt a d schst) = withBuilt a d (withBuilt b e schst) := by
  refine schst_ext ?_ (fun k => ?_) (fun k => ?_)
  · simp only [withBuilt_reserved]
  · simp only [withBuilt_valid, Bool.or_right_comm]
  · simp only [withBuilt_direction]
    by_cases first : k = a
    · have second : k ≠ b := first ▸ distinct
      rw [if_neg second, if_pos first, if_pos first]
    · rw [if_neg first, if_neg first]

/-- Builds of two different stages may be exchanged (R140). -/
theorem storeSchedule_comm {a b : Stage} (distinct : a ≠ b) (m : State) (d e : Dir) (ks ls : KeySchedule) :
    (m.storeSchedule a d ks).storeSchedule b e ls = (m.storeSchedule b e ls).storeSchedule a d ks := by
  have apart : a.val ≠ b.val := fun same => distinct (Fin.ext same)
  simp only [State.storeSchedule, withBuilt_comm distinct, Vector.set_comm _ _ apart]

/-- What TKSB `d` does to one stage, from the key material `km`: stage B in the opposite direction (R139, R141). -/
def State.buildStage (km : KeyMaterial) (d : Dir) (m : State) (s : Stage) : State :=
  m.storeSchedule s (if s = 1 then d.opposite else d)
    (keySchedule Config.tables (stageKey km s) (if s = 1 then d.opposite else d))

/-- KSB of the stage does just that (R140). -/
theorem exec_ksb_eq_buildStage {km : KeyMaterial} {m : State} (material : m.km = km) (d : Dir) (s : Stage) :
    exec (.ksb s (if s = 1 then d.opposite else d)) m = .next (m.buildStage km d s) := by
  subst material
  exact exec_ksb s _ m

/-- TKSB does it to the three stages (R141). -/
theorem buildAll_eq_foldl_buildStage (d : Dir) (m : State) :
    m.buildAll Config.tables d = [0, 1, 2].foldl (State.buildStage m.km d) m := rfl

/-- The stages may be built in any order (R141). -/
theorem buildStage_comm (km : KeyMaterial) (d : Dir) (a b : Stage) (m : State) :
    (m.buildStage km d a).buildStage km d b = (m.buildStage km d b).buildStage km d a := by
  by_cases same : a = b
  · rw [same]
  · exact storeSchedule_comm same m _ _ _ _

/-- Settles O27: the builds of the stages commute, so any order of the three is the order of TKSB. -/
theorem tksbIsThreeKsbInAnyOrder : Obligations.TksbIsThreeKsbInAnyOrder := by
  intro d m a b c ab bc ac
  have order : [a, b, c].Perm [0, 1, 2] := by decide +revert
  have built : m.buildAll Config.tables d = [a, b, c].foldl (State.buildStage m.km d) m :=
    (buildAll_eq_foldl_buildStage d m).trans
      (order.foldl_eq' (fun a _ b _ m' => buildStage_comm m.km d a b m') m).symm
  refine ⟨m.buildStage m.km d a, (m.buildStage m.km d a).buildStage m.km d b, exec_ksb_eq_buildStage rfl d a,
    exec_ksb_eq_buildStage rfl d b, ?_⟩
  rw [exec_tksb, built]
  exact exec_ksb_eq_buildStage rfl d c

end Sys2Proof.Machine

/-! PROOFS. O10: the five steps of the round function (42_round_function.md R151 to R155). -/

namespace Sys2Proof.Machine

/-- One position of the mixed value (R151, R152). -/
theorem getMsbD_mixKey (t : Tables) (r : BitVec 32) (rk : RoundKey) {p : Nat} (hp : p < 48) :
    (mixKey t r rk).getMsbD p = (getBit32 r t.e[p].val ^^ rk.getMsbD p) := by
  rw [mixKey, BitVec.getMsbD_xor, getMsbD_permute _ _ _ hp, getBit32_eq_getMsbD _ t.e[p].isLt]

/-- The output of a group is the entry at index `16·row + col` of its table (R116, R153). -/
theorem substitute_eq_entry (t : Tables) {y : BitVec 48} {j : Fin 8} {index : Fin 64}
    (selected : index.val = 16 * sboxRow (group y j) + sboxCol (group y j)) :
    substitute t y j = t.s[j][index] := by
  simp only [substitute, Fin.getElem_fin, selected]

/-- The outputs are the hexadecimal digits of Z, group 0 the most significant (R154). -/
theorem toNat_substituteAll (t : Tables) (y : BitVec 48) :
    (substituteAll t y).toNat =
      ((List.finRange 8).map fun j => (substitute t y j).toNat * 16 ^ (7 - j.val)).sum := by
  rw [sum_of_digits 16 fun j => (substitute t y j).toNat, substituteAll]
  simp only [toNat_append_digit]

/-- One position of F, read through the P permutation (R155). -/
theorem getMsbD_roundF (t : Tables) (r : BitVec 32) (rk : RoundKey) {i : Nat} (hi : i < 32) :
    (roundF t r rk).getMsbD i = (substituteAll t (mixKey t r rk)).getMsbD t.p[i] :=
  getMsbD_permute t.p _ i hi

/-- Settles O10: one lemma per step; the entry index is the row and the column of the group, by the group's number. -/
theorem roundFunctionInFiveSteps : Obligations.RoundFunctionInFiveSteps := by
  refine fun t r rk => ⟨fun p => getMsbD_mixKey t r rk p.isLt, fun y j v index number bits => ?_,
    toNat_substituteAll t, fun i => getMsbD_roundF t r rk i.isLt⟩
  have selected : index.val = 16 * sboxRow (group y j) + sboxCol (group y j) := by
    rw [bits, sboxIndex_eq, group_toNat, number]
  exact substitute_eq_entry t selected

end Sys2Proof.Machine

/-! PROOFS. O11: what the round function depends on (42_round_function.md R156). -/

namespace Sys2Proof.Machine

/-- F sees R and rk only as the mixed value (R156(b)). -/
theorem roundF_congr {t : Tables} {r r' : BitVec 32} {rk rk' : RoundKey} (mixed : mixKey t r rk = mixKey t r' rk') :
    roundF t r rk = roundF t r' rk' := by
  rw [roundF, roundF, mixed]

/-- With R all zero the mixed value is the round key (R151, R152). -/
theorem mixKey_zero (t : Tables) (rk : RoundKey) : mixKey t 0#32 rk = rk := by
  rw [mixKey, permute_zero, BitVec.zero_xor]

/-- A group of zeros selects row 0, column 0 (R153). -/
theorem substitute_zero (t : Tables) (j : Fin 8) : substitute t 0#48 j = t.s[j][0] := by
  have selected : (0 : Fin 64).val = 16 * sboxRow (group 0#48 j) + sboxCol (group 0#48 j) := by
    rw [sboxIndex_eq, group_toNat, BitVec.toNat_zero, Nat.zero_shiftRight]
    rfl
  exact substitute_eq_entry t selected

/-- Every group selects an entry its table has (R116, R153). -/
theorem sboxIndex_lt (g : BitVec 6) : 16 * sboxRow g + sboxCol g < 64 := by
  have bit (p : Nat) : (g.getMsbD p).toNat ≤ 1 := Bool.toNat_le _
  rw [sboxRow, sboxCol]
  linarith only [bit 0, bit 1, bit 2, bit 3, bit 4, bit 5]

/-- Tables of zeros put out zeros, whichever entry a group selects (R156(e)). -/
theorem substitute_of_zero_entries {t : Tables} (zeros : ∀ (j : Fin 8) (x : Fin 64), t.s[j][x] = 0#4)
    (y : BitVec 48) (j : Fin 8) : substitute t y j = 0#4 :=
  zeros j ⟨_, sboxIndex_lt (group y j)⟩

/-- Settles O11: the round key absorbs the expansion of R; at the mix 0 every group selects entry 0; and zero outputs
join to zero, which the P permutation keeps. -/
theorem roundFunctionDependsOnTheMix : Obligations.RoundFunctionDependsOnTheMix := by
  refine ⟨fun t r r' rk rk' mixed => roundF_congr mixed, fun t r rk => roundF_congr ?_, fun t => ?_,
    fun t r rk zeros => ?_⟩
  · rw [mixKey_zero, mixKey, BitVec.xor_comm]
  · rw [roundF, mixKey_zero, substituteAll]
    simp only [substitute_zero]
    rfl
  · have joined : substituteAll t (mixKey t r rk) = 0#32 := by
      simp only [substituteAll, substitute_of_zero_entries zeros]
      decide
    rw [roundF, joined, permute_zero]

end Sys2Proof.Machine

/-! PROOFS. O12: the rounds as they are written (43_block_cipher.md R171 to R173). -/

namespace Sys2Proof.Machine

/-- Positions of the initial halves are the bits of the block that T_IP selects (R171). -/
theorem getMsbD_initialHalves (t : Tables) (block : Block) (p : Fin 32) :
    (initialHalves t block).l.getMsbD p.val = getBit block t.ip[p.val].val ∧
      (initialHalves t block).r.getMsbD p.val = getBit block t.ip[32 + p.val].val := by
  constructor
  · rw [initialHalves, getMsbD_slice, decide_eq_true p.isLt, Bool.true_and, Nat.zero_add]
    exact getMsbD_permute_bitsOf t.ip block (by omega)
  · rw [initialHalves, getMsbD_slice, decide_eq_true p.isLt, Bool.true_and]
    exact getMsbD_permute_bitsOf t.ip block (by omega)

/-- Settles O12: the split position by position, each swapping round by `halvesAfter_succ`, the rest as defined. -/
theorem sixteenRoundsWithFifteenSwaps : Obligations.SixteenRoundsWithFifteenSwaps := fun t block ks =>
  ⟨getMsbD_initialHalves t block, halvesAfter_zero t ks _,
    fun r => halvesAfter_succ t ks _ r.val (by omega), rfl⟩

end Sys2Proof.Machine

/-! PROOFS. O13: the block cipher as sixteen swapping rounds, then the halves exchanged (43_block_cipher.md R174). -/

namespace Sys2Proof.Machine

/-- The two halves exchanged. -/
def Halves.exchanged (h : Halves) : Halves := ⟨h.r, h.l⟩

theorem Halves.exchanged_involutive : Function.Involutive Halves.exchanged := fun _ => rfl

/-- The round without a swap is a swapping round whose halves are exchanged back (R172, R174). -/
theorem lastRound_eq_exchanged_swapRound (t : Tables) (h : Halves) (rk : RoundKey) :
    lastRound t h rk = (swapRound t h rk).exchanged := rfl

/-- After round 15 the halves are those of sixteen swapping rounds, exchanged (R174). -/
theorem lastRound_halvesAfter (t : Tables) (ks : KeySchedule) (h : Halves) :
    lastRound t (halvesAfter t ks h 15) ks[15] = (halvesAfter t ks h 16).exchanged := by
  rw [halvesAfter_succ t ks h 15 (by decide), lastRound_eq_exchanged_swapRound]

/-- The textbook form of the block cipher (R174). -/
theorem blockCipher_eq_textbook (t : Tables) (block : Block) (ks : KeySchedule) :
    blockCipher t block ks = finalBlock t (halvesAfter t ks (initialHalves t block) 16).exchanged := by
  rw [blockCipher, lastRound_halvesAfter]

/-- Sequences that follow the recurrence of R174 are the halves round by round. -/
theorem halvesAfter_eq_of_recurrence {t : Tables} {ks : KeySchedule} {l r : Nat → BitVec 32}
    (follows : ∀ n : Fin 16, l (n.val + 1) = r n.val ∧ r (n.val + 1) = l n.val ^^^ roundF t (r n.val) ks[n])
    {n : Nat} (hn : n ≤ 16) : halvesAfter t ks ⟨l 0, r 0⟩ n = ⟨l n, r n⟩ := by
  induction n with
  | zero => exact halvesAfter_zero t ks _
  | succ n ih =>
    obtain ⟨left, right⟩ := follows ⟨n, hn⟩
    rw [halvesAfter_succ t ks _ n hn, ih (Nat.le_of_succ_le hn), swapRound, left, right, BitVec.xor_comm]
    rfl

/-- Settles O13: the halves are the pair of sequences up to 16, and the last round exchanges the pair at 16. -/
theorem textbookFormIsTheSame : Obligations.TextbookFormIsTheSame := by
  intro t block ks l r start follows
  have halves {n : Nat} (hn : n ≤ 16) : halvesAfter t ks (initialHalves t block) n = ⟨l n, r n⟩ :=
    start ▸ halvesAfter_eq_of_recurrence follows hn
  have last : lastRound t (halvesAfter t ks (initialHalves t block) 15) ks[15] = ⟨r 16, l 16⟩ := by
    rw [lastRound_halvesAfter, halves (Nat.le_refl 16)]
    rfl
  refine ⟨halves (by decide), last, ?_⟩
  rw [blockCipher, last]
  rfl

end Sys2Proof.Machine

/-! PROOFS. O14, O15: the inversion law (43_block_cipher.md R175, R176). -/

namespace Sys2Proof.Machine

/-- A round undoes itself between two exchanges: F sees the same half, so its two outputs cancel (R175). -/
theorem swapRound_exchanged_swapRound (t : Tables) (h : Halves) (rk : RoundKey) :
    swapRound t (swapRound t h rk).exchanged rk = h.exchanged := by
  have cancel : roundF t h.r rk ^^^ (roundF t h.r rk ^^^ h.l) = h.l := by
    rw [← BitVec.xor_assoc, BitVec.xor_self, BitVec.zero_xor]
  exact congrArg (Halves.mk h.r) cancel

theorem reverseSchedule_getElem (ks : KeySchedule) {n : Nat} (hn : n < 16) :
    (reverseSchedule ks)[n] = ks[15 - n] := Vector.getElem_ofFn hn

theorem reverseSchedule_reverseSchedule (ks : KeySchedule) : reverseSchedule (reverseSchedule ks) = ks :=
  Vector.ext fun n hn => by
    have twice : 15 - (15 - n) = n := by omega
    simp only [reverseSchedule_getElem _ hn, reverseSchedule_getElem ks (by omega : 15 - n < 16), twice]

/-- From the exchanged halves, `n` rounds of the reversed schedule take back the last `n` of sixteen rounds (R175). -/
theorem halvesAfter_reverseSchedule (t : Tables) (ks : KeySchedule) (h : Halves) {n : Nat} (hn : n ≤ 16) :
    halvesAfter t (reverseSchedule ks) (halvesAfter t ks h 16).exchanged n = (halvesAfter t ks h (16 - n)).exchanged := by
  induction n with
  | zero => exact halvesAfter_zero t _ _
  | succ n ih =>
    have previous : 16 - n = 15 - n + 1 := by omega
    have remaining : 16 - (n + 1) = 15 - n := by omega
    rw [halvesAfter_succ t _ _ n hn, ih (Nat.le_of_succ_le hn), previous, halvesAfter_succ t ks h (15 - n) (by omega),
      reverseSchedule_getElem ks hn, swapRound_exchanged_swapRound, remaining]

/-- The final permutation undoes the initial one (R171, R173, R104). -/
theorem finalBlock_initialHalves {t : Tables} (wf : t.WF) (block : Block) :
    finalBlock t (initialHalves t block) = block := by
  obtain ⟨bijection, -⟩ := wf
  obtain ⟨-, undone, -⟩ := inverseUndoesPermute 64 t.ip bijection
  simp only [finalBlock, initialHalves]
  rw [append_slices (n := 32) (k := 32), undone, bytesOf_bitsOf 64 rfl]

/-- R175: sixteen rounds of the reversed schedule take back all sixteen rounds, and the two permutations cancel. -/
theorem blockCipher_reverseSchedule {t : Tables} (wf : t.WF) (x : Block) (ks : KeySchedule) :
    blockCipher t (blockCipher t x ks) (reverseSchedule ks) = x := by
  rw [blockCipher_eq_textbook t _ (reverseSchedule ks), blockCipher_eq_textbook, initialHalves_finalBlock t wf,
    halvesAfter_reverseSchedule t ks _ (Nat.le_refl 16), Halves.exchanged_involutive, Nat.sub_self, halvesAfter_zero,
    finalBlock_initialHalves wf]

/-- The schedule of the opposite direction is the reversed one (R134). -/
theorem keySchedule_opposite (t : Tables) (key : Block) (dir : Dir) :
    keySchedule t key dir.opposite = reverseSchedule (keySchedule t key dir) :=
  Vector.ext fun n hn =>
    (keySchedule_opposite_getElem t key dir ⟨n, hn⟩).trans (reverseSchedule_getElem _ hn).symm

/-- Under one key the cipher of the opposite direction undoes the cipher of a direction (R175). -/
theorem singleCipher_opposite {t : Tables} (wf : t.WF) (key x : Block) (dir : Dir) :
    singleCipher t key dir.opposite (singleCipher t key dir x) = x := by
  rw [singleCipher, singleCipher, keySchedule_opposite, blockCipher_reverseSchedule wf]

/-- Settles O14: the reversed schedule undoes the cipher, and the opposite direction's schedule is the reversed one. -/
theorem reversedScheduleInverts : Obligations.ReversedScheduleInverts := fun _ wf =>
  ⟨blockCipher_reverseSchedule wf, singleCipher_opposite wf⟩

/-- Settles O15: the cipher with the reversed schedule is the inverse on both sides. -/
theorem blockCipherIsABijection : Obligations.BlockCipherIsABijection := fun t ks wf =>
  Function.bijective_iff_has_inverse.mpr ⟨fun y => blockCipher t y (reverseSchedule ks),
    fun x => blockCipher_reverseSchedule wf x ks,
    fun y => by
      simpa only [reverseSchedule_reverseSchedule] using blockCipher_reverseSchedule wf y (reverseSchedule ks)⟩

end Sys2Proof.Machine

/-! PROOFS. O16: two degenerate block ciphers (43_block_cipher.md R177). -/

namespace Sys2Proof.Machine

/-- With F identically zero every swapping round is a mere exchange (R177(b)). -/
theorem halvesAfter_of_roundF_zero {t : Tables} (zero : ∀ r rk, roundF t r rk = 0#32) (ks : KeySchedule) (h : Halves)
    {n : Nat} (hn : n ≤ 16) : halvesAfter t ks h n = Halves.exchanged^[n] h := by
  induction n with
  | zero => exact halvesAfter_zero t ks h
  | succ n ih =>
    rw [halvesAfter_succ t ks h n hn, ih (Nat.le_of_succ_le hn), Function.iterate_succ_apply', swapRound, zero,
      BitVec.zero_xor]
    rfl

/-- Equal subkeys are in the same order backwards (R177(c)). -/
theorem reverseSchedule_eq_self {ks : KeySchedule} (equal : ∀ r r' : Fin 16, ks[r] = ks[r']) :
    reverseSchedule ks = ks :=
  Vector.ext fun n hn => (reverseSchedule_getElem ks hn).trans (equal ⟨15 - n, by omega⟩ ⟨n, hn⟩)

/-- Settles O16: sixteen exchanges cancel, which leaves the one at the end; equal subkeys are their own reversed
schedule. -/
theorem degenerateCiphers : Obligations.DegenerateCiphers := by
  refine ⟨fun t x ks zero => ?_, fun t x ks wf equal => ?_⟩
  · rw [blockCipher_eq_textbook, halvesAfter_of_roundF_zero zero ks _ (Nat.le_refl 16),
      Halves.exchanged_involutive.iterate_even (by decide)]
    rfl
  · simpa only [reverseSchedule_eq_self equal] using blockCipher_reverseSchedule wf x ks

end Sys2Proof.Machine

/-! PROOFS. O28: the command BCR (43_block_cipher.md R180). -/

namespace Sys2Proof.Machine

/-- Settles O28: under the right lengths a built stage runs, and the frame of a run is that of its two updates. -/
theorem bcrRunsOneStage : Obligations.BcrRunsOneStage := by
  intro s m lengths built
  have good : m.badLength = false := (badLength_eq_false_iff m).mpr lengths
  refine ⟨_, exec_bcr_run good built, rfl, fun written => ?_, rfl, run_sameInputs m _ _, run_sameSchedules m _ _,
    run_sameFault m _ _⟩
  obtain ⟨block, noDraws⟩ := inputBlock_of_written written
  simp [block, noDraws]

end Sys2Proof.Machine

/-! PROOFS. O17: the two directions of the triple cipher (44_triple_cipher.md R193). -/

namespace Sys2Proof.Machine

/-- The triple cipher is three single ciphers in the order A, B, C, stage B in the opposite direction (R190, R191, R139). -/
theorem tripleCipher_eq_singleCiphers (t : Tables) (x : Block) (km : KeyMaterial) (dir : Dir) :
    tripleCipher t x km dir = singleCipher t (stageKey km 2) dir
      (singleCipher t (stageKey km 1) dir.opposite (singleCipher t (stageKey km 0) dir x)) := rfl

/-- Settles O17: the three stages, each under the key its eight bytes are. -/
theorem tripleDirectionsWrittenOut : Obligations.TripleDirectionsWrittenOut := by
  intro t x km k1 k2 k3 bytes
  have first : stageKey km 0 = k1 := stageKey_eq fun i => by
    obtain ⟨byte, -, -⟩ := bytes i
    simpa using byte
  have second : stageKey km 1 = k2 := stageKey_eq fun i =>
    have ⟨_, byte, _⟩ := bytes i
    byte
  have third : stageKey km 2 = k3 := stageKey_eq fun i =>
    have ⟨_, _, byte⟩ := bytes i
    byte
  subst first second third
  exact ⟨tripleCipher_eq_singleCiphers t x km .enc, tripleCipher_eq_singleCiphers t x km .dec⟩

end Sys2Proof.Machine

/-! PROOFS. O18: the round trips of the triple cipher (44_triple_cipher.md R194). -/

namespace Sys2Proof.Machine

/-- swap(km) holds the three keys in the reverse order (R194). -/
theorem stageKey_swapKeys (km : KeyMaterial) (s : Stage) : stageKey (swapKeys km) s = stageKey km s.rev :=
  stageKey_eq fun i => by
    have := s.isLt
    have stage : 2 - (8 * s.val + i.val) / 8 = s.rev.val := by rw [Fin.val_rev]; omega
    have byte : (8 * s.val + i.val) % 8 = i.val := by omega
    simp only [stageKey, swapKeys, Fin.getElem_fin, Vector.getElem_ofFn, stage, byte]

/-- Under swap(km) the stages run with the keys k3, k2, k1 (R194). -/
theorem tripleCipher_swapKeys (t : Tables) (x : Block) (km : KeyMaterial) (dir : Dir) :
    tripleCipher t x (swapKeys km) dir = singleCipher t (stageKey km 0) dir
      (singleCipher t (stageKey km 1) dir.opposite (singleCipher t (stageKey km 2) dir x)) := by
  rw [tripleCipher_eq_singleCiphers, stageKey_swapKeys, stageKey_swapKeys, stageKey_swapKeys]
  rfl

/-- The opposite direction under swap(km) undoes a direction under km, the last stage first (R194). -/
theorem tripleCipher_swapKeys_opposite {t : Tables} (wf : t.WF) (x : Block) (km : KeyMaterial) (dir : Dir) :
    tripleCipher t (tripleCipher t x km dir) (swapKeys km) dir.opposite = x := by
  rw [tripleCipher_swapKeys, tripleCipher_eq_singleCiphers, singleCipher_opposite wf, singleCipher_opposite wf,
    singleCipher_opposite wf]

/-- Two keys with equal ENC schedules give the same cipher, in DEC too (R134). -/
theorem singleCipher_congr {t : Tables} {key key' : Block} (same : keySchedule t key .enc = keySchedule t key' .enc) :
    singleCipher t key = singleCipher t key' := by
  have schedules (dir : Dir) : keySchedule t key dir = keySchedule t key' dir := by
    cases dir with
    | enc => exact same
    | dec =>
      calc keySchedule t key .dec
        _ = reverseSchedule (keySchedule t key .enc) := keySchedule_opposite t key .enc
        _ = reverseSchedule (keySchedule t key' .enc) := by rw [same]
        _ = keySchedule t key' .dec := (keySchedule_opposite t key' .enc).symm
  funext dir x
  rw [singleCipher, singleCipher, schedules]

/-- Settles O18: the round trip under swap(km), and the one under km, which differs from it by the keys of stages A and C
alone. -/
theorem tripleRoundTrips : Obligations.TripleRoundTrips := by
  refine fun t x km wf =>
    ⟨tripleCipher_swapKeys_opposite wf x km .enc, tripleCipher_swapKeys_opposite wf x km .dec, fun same => ?_⟩
  have swapped (y : Block) : tripleCipher t y km .dec = tripleCipher t y (swapKeys km) .dec := by
    rw [tripleCipher_swapKeys, tripleCipher_eq_singleCiphers, singleCipher_congr same]
  exact (swapped _).trans (tripleCipher_swapKeys_opposite wf x km .enc)

end Sys2Proof.Machine

/-! PROOFS. O19: the laws of the triple cipher (44_triple_cipher.md R195). -/

namespace Sys2Proof.Machine

/-- Three bijections in a row (R195(a)). -/
theorem tripleRun_bijective {t : Tables} (wf : t.WF) (tks : TripleKeySchedule) :
    Function.Bijective fun x => tripleRun t x tks :=
  have stage (ks : KeySchedule) := blockCipherIsABijection t ks wf
  (stage tks[2]).comp ((stage tks[1]).comp (stage tks[0]))

theorem opposite_opposite (dir : Dir) : dir.opposite.opposite = dir := by cases dir <;> rfl

/-- Under one key a direction undoes the opposite one (R175). -/
theorem singleCipher_of_opposite {t : Tables} (wf : t.WF) (key x : Block) (dir : Dir) :
    singleCipher t key dir (singleCipher t key dir.opposite x) = x := by
  simpa only [opposite_opposite] using singleCipher_opposite wf key x dir.opposite

/-- The opposite direction reverses each of the three schedules and leaves the stages in their order (R195(c)). -/
theorem tripleSchedule_opposite (t : Tables) (km : KeyMaterial) (dir : Dir) :
    tripleSchedule t km dir.opposite = (tripleSchedule t km dir).map reverseSchedule := by
  refine Vector.ext fun s hs => ?_
  have turned := tripleSchedule_getElem t km dir.opposite ⟨s, hs⟩
  rw [stageDirection_opposite, keySchedule_opposite, ← tripleSchedule_getElem] at turned
  rw [Vector.getElem_map]
  exact turned

/-- Settles O19: stages A and B, or B and C, cancel when their schedules are equal. -/
theorem tripleCipherLaws : Obligations.TripleCipherLaws := by
  refine fun t km dir wf => ⟨tripleRun_bijective wf _, fun same x => ?_, fun same x => ?_, fun x => ?_⟩
  · rw [tripleCipher_eq_singleCiphers, singleCipher_congr same, singleCipher_opposite wf]
  · rw [tripleCipher_eq_singleCiphers, singleCipher_congr same, singleCipher_of_opposite wf]
  · exact congrArg (tripleRun t x) (tripleSchedule_opposite t km .enc)

end Sys2Proof.Machine

/-! PROOFS. O29, O30, O31: the commands TCR and TCX (44_triple_cipher.md R200, R201). -/

namespace Sys2Proof.Machine

/-- Settles O29: under the right lengths the built stages run, and the frame of a run is that of its two updates. -/
theorem tcrRunsThreeStages : Obligations.TcrRunsThreeStages := by
  intro m lengths built
  have good : m.badLength = false := (badLength_eq_false_iff m).mpr lengths
  refine ⟨_, exec_tcr_run good ((allBuilt_iff m).mpr built), rfl, fun written => ?_, rfl, run_sameInputs m _ _,
    run_sameSchedules m _ _, run_sameFault m _ _⟩
  obtain ⟨block, noDraws⟩ := inputBlock_of_written written
  simp [block, noDraws]

/-- Settles O30: under the right lengths TCX is the build of all stages and then a run, and its frame is that of the two. -/
theorem tcxBuildsAndRuns : Obligations.TcxBuildsAndRuns := by
  intro d m lengths
  have good : m.badLength = false := (badLength_eq_false_iff m).mpr lengths
  refine ⟨_, exec_tcx_run good, buildAll_tks _ d m, fun k => ⟨?_, ?_⟩, buildAll_reserved _ d m, rfl, fun written => ?_,
    rfl, (buildAll_sameInputs m _ d).trans (run_sameInputs _ _ _),
    (buildAll_sameFault m _ d).trans (run_sameFault _ _ _)⟩
  · rw [storeResult_sv, takeDraws_sv, buildAll_sv]
  · rw [storeResult_sd, takeDraws_sd, buildAll_sd_eq_toBit]
  · obtain ⟨block, noDraws⟩ := inputBlock_of_written written
    simp [block, noDraws]

/-- Settles O31: TKSB leaves BLEN and the input block, and builds the three schedules TCR then runs. -/
theorem tcxIsTksbThenTcr : Obligations.TcxIsTksbThenTcr := by
  intro d m lengths
  have good : m.badLength = false := (badLength_eq_false_iff m).mpr lengths
  have stillGood : (m.buildAll Config.tables d).badLength = false := (buildAll_badLength _ d m).trans good
  have built : (m.buildAll Config.tables d).allBuilt = true := (allBuilt_iff _).mpr (buildAll_sv _ d m)
  refine ⟨_, exec_tksb d m, ?_⟩
  rw [exec_tcr_run stillGood built, exec_tcx_run good, buildAll_inputDraws, buildAll_inputBlock, buildAll_tks,
    tripleCipher]

end Sys2Proof.Machine

/-! PROOFS. O32: TCR as three BCR (44_triple_cipher.md R200, 43_block_cipher.md R180). -/

namespace Sys2Proof.Machine

/-- Every run command runs, on the bytes of IBUF: the lengths are right, all stages are built, all of IBUF is written. -/
structure State.RunReady (m : State) : Prop where
  lengths : m.blen = 0x88#8
  built : ∀ s, m.sv s = true
  written : ∀ i : Fin 8, m.ibufWritten[i] = true

/-- A copy of any block to IBUF, all of it written already, leaves the state ready. -/
theorem State.RunReady.withIbuf {m : State} (ready : m.RunReady) (b : Block) : { m with ibuf := b }.RunReady :=
  ⟨ready.lengths, ready.built, ready.written⟩

/-- BCR in a ready state: OBUF is the cipher of IBUF, the schedules stay, and the state is ready again (R180). -/
theorem State.RunReady.exec_bcr {m : State} (ready : m.RunReady) (s : Stage) :
    ∃ t, exec (.bcr s) m = .next t ∧ t.obuf = blockCipher Config.tables m.ibuf m.tks[s] ∧ t.tks = m.tks ∧ t.RunReady := by
  obtain ⟨t, run, -, output, -, inputs, schedules, -⟩ := bcrRunsOneStage s m ready.lengths (ready.built s)
  obtain ⟨result, -⟩ := output ready.written
  refine ⟨t, run, result, schedules.tks, inputs.blen.trans ready.lengths, fun k => ?_, fun i => ?_⟩
  · rw [State.sv, schedules.schst]
    exact ready.built k
  · rw [inputs.ibufWritten]
    exact ready.written i

/-- Settles O32: each BCR after the first has the previous one's output as its IBUF and finds the schedules as they were. -/
theorem tcrIsThreeBcr : Obligations.TcrIsThreeBcr := by
  intro m lengths built written
  have ready : m.RunReady := ⟨lengths, built, written⟩
  obtain ⟨m1, run1, out1, tks1, ready1⟩ := ready.exec_bcr 0
  obtain ⟨m2, run2, out2, tks2, ready2⟩ := (ready1.withIbuf m1.obuf).exec_bcr 1
  obtain ⟨m3, run3, out3, -, -⟩ := (ready2.withIbuf m2.obuf).exec_bcr 2
  obtain ⟨t, run, -, output, -⟩ := tcrRunsThreeStages m lengths built
  obtain ⟨result, -⟩ := output written
  refine ⟨m1, m2, m3, t, run1, run2, run3, run, ?_⟩
  simp only [out3, out2, out1, tks2, tks1, result, tripleRun]
  rfl

end Sys2Proof.Machine

/-! PROOFS. O33: every command completes (60_exceptions.md R220, R226). -/

namespace Sys2Proof.Machine

/-- Settles O33: a build always completes; a run command completes or, where a check of R224 fails, enters the fault. -/
theorem everyCommandCompletes : Obligations.EveryCommandCompletes := by
  intro i m
  cases i with
  | ksb s d => exact ⟨_, exec_ksb s d m⟩
  | tksb d => exact ⟨_, exec_tksb d m⟩
  | bcr s =>
    cases lengths : m.badLength with
    | true => exact ⟨_, exec_badLength rfl lengths⟩
    | false =>
      cases built : m.sv s with
      | true => exact ⟨_, exec_bcr_run lengths built⟩
      | false => exact ⟨_, exec_bcr_unbuilt lengths built⟩
  | tcr =>
    cases lengths : m.badLength with
    | true => exact ⟨_, exec_badLength rfl lengths⟩
    | false =>
      cases built : m.allBuilt with
      | true => exact ⟨_, exec_tcr_run lengths built⟩
      | false => exact ⟨_, exec_tcr_unbuilt lengths built⟩
  | tcx d =>
    cases lengths : m.badLength with
    | true => exact ⟨_, exec_badLength rfl lengths⟩
    | false => exact ⟨_, exec_tcx_run lengths⟩

end Sys2Proof.Machine

/-! PROOFS. O37, O38: the faults of the run commands (60_exceptions.md R221, R223, R224). -/

namespace Sys2Proof.Machine

/-- The two fields of BLEN whose wrong value is a wrong length (R26, R221). -/
theorem badLength_of_field {m : State} (wrong : m.ilen ≠ 8 ∨ m.olen ≠ 8) : m.badLength = true := by
  rwa [State.badLength, Bool.or_eq_true, bne_iff_ne, bne_iff_ne]

/-- Settles O37: the lengths are checked first, whatever the schedules are. -/
theorem wrongLengthRaisesInvalidBlockLength : Obligations.WrongLengthRaisesInvalidBlockLength := by
  intro i m run wrong
  have bad : m.badLength = true := badLength_of_field wrong
  exact ⟨(badLength_eq_true_iff m).mp bad, _, exec_badLength run bad, raise_faultEntered m .invalidBlockLength _⟩

/-- One stage that is not built is enough (R200). -/
theorem allBuilt_eq_false_of_unbuilt {m : State} {s : Stage} (unbuilt : m.sv s = false) : m.allBuilt = false :=
  Bool.eq_false_iff.mpr fun all => Bool.false_ne_true (unbuilt.symm.trans ((allBuilt_iff m).mp all s))

/-- Settles O38: the lengths pass, and the check of the schedules fails. -/
theorem unbuiltScheduleRaisesScheduleNotBuilt : Obligations.UnbuiltScheduleRaisesScheduleNotBuilt := by
  intro m s lengths unbuilt
  have good : m.badLength = false := (badLength_eq_false_iff m).mpr lengths
  exact ⟨⟨_, exec_bcr_unbuilt good unbuilt, raise_faultEntered m .scheduleNotBuilt _⟩,
    ⟨_, exec_tcr_unbuilt good (allBuilt_eq_false_of_unbuilt unbuilt), raise_faultEntered m .scheduleNotBuilt _⟩⟩

end Sys2Proof.Machine

/-! PROOFS. O24: an illegal byte written to CMD (60_exceptions.md R222, R226; 30_encoding.md R74). -/

namespace Sys2Proof.Machine

/-- A byte that no row of the map selects decodes to no command (R72, R74). -/
theorem decode_error_of_illegal {c : Byte} (illegal : legalCommandByte c = false) : ∃ why, decode c = .error why :=
  decode_error_of_ne_ok fun i decoded =>
    Bool.false_ne_true (illegal.symm.trans (legalCommandByte_iff.mpr ⟨i, decode_eq_ok_iff.mp decoded⟩))

/-- Such a byte raises IllegalCommand (R222). -/
theorem executeCommand_of_error {c : Byte} {why : Illegal} (decoded : decode c = .error why)
    (run : Instr → State → Outcome) (m : State) : executeCommand run c m = .next (raise .illegalCommand c m) := by
  rw [executeCommand, decoded]

/-- Settles O24: the write reaches CMD, and the byte is no command. -/
theorem illegalByteRaisesIllegalCommand : Obligations.IllegalByteRaisesIllegalCommand := by
  intro m c rest script running illegal
  obtain ⟨why, decoded⟩ := decode_error_of_illegal illegal
  have stepped : step m = .next (raise .illegalCommand c (m.withScript rest)) :=
    calc step m = hostWrite exec (Reg.offset .cmd) c (m.withScript rest) := step_transact script
      _ = executeCommand exec c (m.withScript rest) :=
        hostWrite_cmd ((withScript_flt m rest).trans running) exec c regAt_cmd
      _ = .next (raise .illegalCommand c (m.withScript rest)) := executeCommand_of_error decoded exec _
  exact ⟨_, stepped, raise_faultEntered _ .illegalCommand c⟩

end Sys2Proof.Machine

/-! PROOFS. O39, O40: the Faulted state (60_exceptions.md R226, R227; 20_memory.md R53). -/

namespace Sys2Proof.Machine

/-- While Faulted a write inside the address space is ignored (R53, R226). -/
theorem hostWrite_of_faulted {m : State} {off : Nat} (faulted : m.flt = true) (inside : off ≤ lastOffset)
    (run : Instr → State → Outcome) (v : Byte) : hostWrite run off v m = .next m := by
  rw [hostWrite, if_neg inside.not_gt, if_pos faulted]

/-- Settles O39: the step takes the write from the script, and the engine ignores it. -/
theorem faultedEngineIgnoresWrites : Obligations.FaultedEngineIgnoresWrites := fun m _ v rest faulted inside script =>
  (step_transact script).trans (hostWrite_of_faulted ((withScript_flt m rest).trans faulted) inside exec v)

/-- While Faulted a transaction that is answered and is no reset changes no register: every other effect needs FLT = 0. -/
theorem Performed.sameRegisters_of_faulted {op : HostOp} {m t : State} (performed : Performed op m t)
    (faulted : m.flt = true) (notReset : op ≠ .reset) : m.SameRegisters t := by
  have notRunning : m.flt ≠ false := Bool.ne_false_iff.mpr faulted
  cases performed with
  | kept same => exact same
  | km i v wrote running => exact absurd running notRunning
  | ibuf i v wrote running => exact absurd running notRunning
  | blen v wrote running => exact absurd running notRunning
  | command v wrote running executed => exact absurd running notRunning
  | reset isReset => exact absurd isReset notReset

/-- Settles O40: the engine waits, or performs a transaction that while Faulted changes no register. -/
theorem faultedUntilReset : Obligations.FaultedUntilReset := by
  intro m t faulted notReset h
  have same : m.SameRegisters t := by
    cases script : m.script with
    | nil =>
      rw [step_idle script] at h
      cases h
      exact .refl m
    | cons op rest =>
      have notResetOp : op ≠ .reset := fun isReset => notReset (by rw [State.ResetNext, script, isReset, List.head?_cons])
      exact ((step_performed script h).sameRegisters_of_faulted ((withScript_flt m rest).trans faulted)
        notResetOp).of_withScript
  exact ⟨same, by rw [State.flt, same.status]; exact faulted⟩

end Sys2Proof.Machine

/-! PROOFS. O34: a command changes only the registers the opcode table gives it (60_exceptions.md R220, R226; the "writes" of
the opcode table). -/

namespace Sys2Proof.Machine

/-- What a command that enters no fault leaves as it was, besides KM, IBUF and BLEN: the fault registers; the schedules and
bits of the stages it does not build; SCHST when it builds none; OBUF and STATUS when it is no run command. -/
structure State.OwnEffect (i : Instr) (m t : State) : Prop where
  fault : m.SameFault t
  stages : ∀ k : Stage, i.builds k = false → t.tks[k] = m.tks[k] ∧ t.sv k = m.sv k ∧ t.sd k = m.sd k
  schst : (∀ k : Stage, i.builds k = false) → t.schst = m.schst
  output : i.isRun = false → m.SameOutput t
  status : i.isRun = false → t.status = m.status

/-- A build of one stage (R140). -/
theorem storeSchedule_ownEffect (m : State) (s : Stage) (d : Dir) (ks : KeySchedule) :
    State.OwnEffect (.ksb s d) m (m.storeSchedule s d ks) where
  fault := storeSchedule_sameFault m s d ks
  stages k notBuilt := by
    have other : k ≠ s := ne_of_beq_false notBuilt
    refine ⟨?_, ?_, ?_⟩
    · rw [storeSchedule_tks_getElem, if_neg other]
    · rw [storeSchedule_sv, decide_eq_false other, Bool.or_false]
    · rw [storeSchedule_sd, if_neg other]
  schst buildsNone := absurd rfl (ne_of_beq_false (buildsNone s))
  output _ := storeSchedule_sameOutput m s d ks
  status _ := rfl

/-- A build of all stages (R141). -/
theorem buildAll_ownEffect (t : Tables) (d : Dir) (m : State) : State.OwnEffect (.tksb d) m (m.buildAll t d) where
  fault := buildAll_sameFault m t d
  stages := nofun
  schst buildsNone := nomatch buildsNone 0
  output _ := buildAll_sameOutput m t d
  status _ := rfl

/-- A run of the schedules as they stand (R180, R200). -/
theorem run_ownEffect {i : Instr} (run : i.isRun = true) (m : State) (n : Nat) (b : Block) :
    State.OwnEffect i m ((m.takeDraws n).storeResult b) where
  fault := run_sameFault m n b
  stages _ _ := ⟨rfl, rfl, rfl⟩
  schst _ := rfl
  output notRun := absurd run (Bool.eq_false_iff.mp notRun)
  status notRun := absurd run (Bool.eq_false_iff.mp notRun)

/-- A build of all stages and a run (R201). -/
theorem buildAll_run_ownEffect (t : Tables) (d : Dir) (m : State) (n : Nat) (b : Block) :
    State.OwnEffect (.tcx d) m (((m.buildAll t d).takeDraws n).storeResult b) where
  fault := (buildAll_sameFault m t d).trans (run_sameFault _ n b)
  stages := nofun
  schst buildsNone := nomatch buildsNone 0
  output := nofun
  status := nofun

/-- A command enters fault 1 or 3 with its own byte, or has its own effect (R220). -/
theorem exec_faultEntered_or_ownEffect {i : Instr} {m t : State} (h : exec i m = .next t) :
    (∃ code, (code = 1#8 ∨ code = 3#8) ∧ m.FaultEntered code (encode i) t) ∨ m.OwnEffect i t := by
  obtain ⟨-, -, rfl⟩ | ⟨-, -, rfl⟩ | ⟨s, d, rfl, rfl⟩ | ⟨d, rfl, rfl⟩ | ⟨-, n, block, rfl, ⟨s, rfl, -⟩ | rfl⟩ |
    ⟨-, d, n, block, rfl, rfl⟩ := exec_next h
  · exact .inl ⟨_, .inl rfl, raise_faultEntered m .invalidBlockLength _⟩
  · exact .inl ⟨_, .inr rfl, raise_faultEntered m .scheduleNotBuilt _⟩
  · exact .inr (storeSchedule_ownEffect m s d _)
  · exact .inr (buildAll_ownEffect _ d m)
  · exact .inr (run_ownEffect rfl m n block)
  · exact .inr (run_ownEffect rfl m n block)
  · exact .inr (buildAll_run_ownEffect _ d m n block)

/-- A register that the opcode table does not give the command reads as before. -/
theorem State.OwnEffect.readReg_eq {i : Instr} {m t : State} (own : m.OwnEffect i t) (inputs : m.SameInputs t) {reg : Reg}
    (notWritten : i.writes reg = false) : t.readReg reg = m.readReg reg := by
  cases reg with
  | km j => simp only [State.readReg, inputs.km]
  | ibuf j => simp only [State.readReg, inputs.ibuf, inputs.ibufWritten]
  | obuf j =>
    have same := own.output notWritten
    simp only [State.readReg, same.obuf, same.ov]
  | blen => simp only [State.readReg, inputs.blen]
  | cmd => rfl
  | status => simp only [State.readReg, own.status notWritten]
  | fcause => simp only [State.readReg, own.fault.fcause]
  | finfo => simp only [State.readReg, own.fault.finfo]
  | schst =>
    have buildsNone : ∀ k : Stage, i.builds k = false := by
      simpa [Instr.writes, Fin.forall_fin_succ, and_assoc] using notWritten
    simp only [State.readReg, own.schst buildsNone]
  | tks k r b =>
    obtain ⟨schedule, valid, -⟩ := own.stages k notWritten
    simp only [State.readReg, schedule, valid]

/-- Settles O34: the frame of the command's own effect, register by register. -/
theorem commandsChangeOnlyTheirRegisters : Obligations.CommandsChangeOnlyTheirRegisters := by
  intro i m t h
  have inputs := exec_sameInputs h
  exact ⟨inputs, (exec_faultEntered_or_ownEffect h).imp_right fun own =>
    ⟨own.fault, fun _ _ _ notWritten => own.readReg_eq inputs notWritten, own.stages, own.output⟩⟩

end Sys2Proof.Machine

/-! PROOFS. O35, O36: what the run commands depend on, and TCX undone (70_reset_and_hazards.md R256, R257;
44_triple_cipher.md R194). -/

namespace Sys2Proof.Machine

/-- The input block depends on IBUF, on which bytes of it are written, and on the draws alone (R24, R52). -/
theorem inputBlock_congr {m m' : State} (ibuf : m.ibuf = m'.ibuf) (written : m.ibufWritten = m'.ibufWritten)
    (draws : m.draws = m'.draws) : m.inputBlock = m'.inputBlock := by
  simp only [State.inputBlock, State.unwrittenBelow, ibuf, written, draws]

/-- Settles O35: both states run, and compute the same function of the same input block and the same schedules. -/
theorem runsIgnoreKeyMaterial : Obligations.RunsIgnoreKeyMaterial := by
  intro m m' t t' lengths lengths' ibuf written draws tks built built'
  have good : m.badLength = false := (badLength_eq_false_iff m).mpr lengths
  have good' : m'.badLength = false := (badLength_eq_false_iff m').mpr lengths'
  have block : m.inputBlock = m'.inputBlock := inputBlock_congr ibuf written draws
  refine ⟨fun s run run' => ?_, fun run run' => ?_⟩
  · rw [exec_bcr_run good (built s)] at run
    rw [exec_bcr_run good' (built' s)] at run'
    cases run
    cases run'
    rw [storeResult_obuf, storeResult_obuf, block, tks]
  · rw [exec_tcr_run good ((allBuilt_iff m).mpr built)] at run
    rw [exec_tcr_run good' ((allBuilt_iff m').mpr built')] at run'
    cases run
    cases run'
    rw [storeResult_obuf, storeResult_obuf, block, tks]

/-- Settles O36: each TCX runs the triple cipher on its own input block and key material, and the second one's block is the
first one's result. -/
theorem tcxUndoneBySwappedKeys : Obligations.TcxUndoneBySwappedKeys := by
  intro d m lengths
  refine ⟨_, exec_tcx_run ((badLength_eq_false_iff m).mpr lengths), fun m2 lengths2 written ibuf km => ?_⟩
  obtain ⟨block, -⟩ := inputBlock_of_written written
  refine ⟨_, exec_tcx_run ((badLength_eq_false_iff m2).mpr lengths2), ?_⟩
  rw [storeResult_obuf, block, ibuf, storeResult_obuf, km]
  exact tripleCipher_swapKeys_opposite Config.tables_wf m.inputBlock m.km d

end Sys2Proof.Machine

/-! PROOFS. O45: the transactions that are answered (70_reset_and_hazards.md R262; 20_memory.md R51, R58). -/

namespace Sys2Proof.Machine

/-- The offsets that can be read are those of the registers but CMD (R51). -/
theorem readableOffset_iff {off : Nat} :
    readableOffset off = true ↔ ∃ reg, regAt off = some reg ∧ reg ≠ .cmd := by
  constructor
  · intro readable
    obtain low | ⟨low, high⟩ | ⟨low, high⟩ | ⟨low, high⟩ := of_decide_eq_true readable
    · exact ⟨_, regAt_offset (.km ⟨off, by omega⟩), nofun⟩
    · obtain high | high | rfl : off < 0x028 ∨ (0x028 ≤ off ∧ off < 0x030) ∨ off = 0x030 := by omega
      · obtain ⟨i, rfl⟩ := Nat.exists_eq_add_of_le low
        exact ⟨_, regAt_offset (.ibuf ⟨i, by omega⟩), nofun⟩
      · obtain ⟨i, rfl⟩ := Nat.exists_eq_add_of_le high.1
        exact ⟨_, regAt_offset (.obuf ⟨i, by omega⟩), nofun⟩
      · exact ⟨_, regAt_offset .blen, nofun⟩
    · interval_cases off
      · exact ⟨_, regAt_offset .status, nofun⟩
      · exact ⟨_, regAt_offset .fcause, nofun⟩
      · exact ⟨_, regAt_offset .finfo, nofun⟩
      · exact ⟨_, regAt_offset .schst, nofun⟩
    · exact ⟨_, regAt_tks_window low (by omega), nofun⟩
  · rintro ⟨reg, found, notCmd⟩
    obtain rfl := offset_of_regAt found
    refine decide_eq_true ?_
    cases reg <;> simp only [Reg.offset, ne_eq, reduceCtorEq, not_true_eq_false] at notCmd ⊢ <;> omega

/-- The offsets that can be written are those of KM, IBUF, BLEN and CMD (R51, R53). -/
theorem writableOffset_iff {off : Nat} :
    writableOffset off = true ↔ (∃ i, regAt off = some (.km i)) ∨ (∃ i, regAt off = some (.ibuf i)) ∨
      regAt off = some .blen ∨ regAt off = some .cmd := by
  constructor
  · intro writable
    obtain low | ⟨low, high⟩ | rfl | rfl := of_decide_eq_true writable
    · exact .inl ⟨_, regAt_offset (.km ⟨off, by omega⟩)⟩
    · obtain ⟨i, rfl⟩ := Nat.exists_eq_add_of_le low
      exact .inr (.inl ⟨_, regAt_offset (.ibuf ⟨i, by omega⟩)⟩)
    · exact .inr (.inr (.inl (regAt_offset .blen)))
    · exact .inr (.inr (.inr (regAt_offset .cmd)))
  · refine fun found => decide_eq_true ?_
    obtain ⟨i, found⟩ | ⟨i, found⟩ | found | found := found <;> obtain rfl := offset_of_regAt found
    · exact .inl (Nat.le_of_lt_succ i.isLt)
    · exact .inr (.inl ⟨Nat.le_add_right _ _, Nat.add_le_add_left (Nat.le_of_lt_succ i.isLt) _⟩)
    · exact .inr (.inr (.inl rfl))
    · exact .inr (.inr (.inr rfl))

/-- Every byte written to CMD is answered: a command completes, and any other byte is a fault entry (R72, R222). -/
theorem executeCommand_answers (c : Byte) (m : State) : ∃ t, executeCommand exec c m = .next t := by
  cases decoded : decode c with
  | ok i =>
    rw [executeCommand_of_decode decoded]
    exact everyCommandCompletes i m
  | error why => exact ⟨_, executeCommand_of_error decoded exec m⟩

/-- A read is answered exactly at a readable offset (R52, R58). -/
theorem hostRead_answers_iff {off : Nat} {m : State} : (∃ t, hostRead off m = .next t) ↔ readableOffset off = true := by
  rw [readableOffset_iff]
  constructor
  · rintro ⟨t, h⟩
    obtain ⟨-, reg, found, reads⟩ := hostRead_next h
    refine ⟨reg, found, ?_⟩
    rintro rfl
    obtain ⟨v, value, -⟩ | ⟨draw, -⟩ := reads
    · cases value
    · cases draw
  · rintro ⟨reg, found, notCmd⟩
    obtain ⟨v, value⟩ | draw := readReg_value_or_draw m notCmd
    · exact ⟨_, hostRead_value found value⟩
    · exact ⟨_, hostRead_draw found draw⟩

/-- A write is answered, by an engine that is not Faulted, exactly at a writable offset (R53, R58). -/
theorem hostWrite_answers_iff {m : State} (running : m.flt = false) {off : Nat} {v : Byte} :
    (∃ t, hostWrite exec off v m = .next t) ↔ writableOffset off = true := by
  rw [writableOffset_iff]
  constructor
  · rintro ⟨t, h⟩
    obtain ⟨-, ⟨faulted, -⟩ | ⟨-, write⟩⟩ := hostWrite_next h
    · exact absurd faulted (Bool.eq_false_iff.mp running)
    · exact write.imp (.imp fun _ => And.left) (.imp (.imp fun _ => And.left) (.imp And.left And.left))
  · rintro (⟨i, found⟩ | ⟨i, found⟩ | found | found)
    · exact ⟨_, hostWrite_km running exec v found⟩
    · exact ⟨_, hostWrite_ibuf running exec v found⟩
    · exact ⟨_, hostWrite_blen running exec v found⟩
    · rw [hostWrite_cmd running exec v found]
      exact executeCommand_answers v m

/-- A transaction is answered, by an engine that is not Faulted, exactly when the host may make it (R262); a write back has
something to write. -/
theorem transact_answers_iff {fk : KeyMaterial} {op : HostOp} {m : State} (running : m.flt = false)
    (source : ∀ off, op = .writeBack off → m.reads ≠ []) :
    (∃ t, transact fk exec op m = .next t) ↔ op.wellFormed = true := by
  cases op with
  | read off => exact hostRead_answers_iff
  | write off v => exact hostWrite_answers_iff running
  | writeBack off =>
    simp only [transact, List.getLast?_eq_some_getLast (source off rfl)]
    exact hostWrite_answers_iff running
  | reset => exact iff_of_true ⟨_, rfl⟩ rfl
  | wideRead off extra => exact iff_of_false nofun nofun
  | wideWrite off v0 v1 more => exact iff_of_false nofun nofun

/-- No step ends in a fault (R226), so a step that is not answered is refused. -/
theorem refused_of_not_next {o : Outcome} (notNext : ¬ ∃ t, o = .next t) : ∃ why, o = .refused why := by
  cases o with
  | next t => exact absurd ⟨t, rfl⟩ notNext
  | fault r => cases r
  | refused why => exact ⟨why, rfl⟩

/-- Settles O45: the step is the transaction, answered exactly when it is well formed and else refused. -/
theorem onlyListedTransactionsAreAnswered : Obligations.OnlyListedTransactionsAreAnswered := by
  intro m op rest script running source
  have answered := transact_answers_iff (fk := Config.formatKey) ((withScript_flt m rest).trans running) source
  rw [← step_transact script] at answered
  exact ⟨answered.mpr, fun illFormed => refused_of_not_next fun next =>
    Bool.false_ne_true (illFormed.symm.trans (answered.mp next))⟩

end Sys2Proof.Machine

/-! PROOFS. O52, O48: reset, and what only reset clears (70_reset_and_hazards.md R250; 60_exceptions.md R227; 10_state.md R28,
R31). -/

namespace Sys2Proof.Machine

/-- OV and every SV bit that is set in `m` is set in `t`. -/
structure State.KeepsMarks (m t : State) : Prop where
  ov : m.ov = true → t.ov = true
  sv : ∀ s, m.sv s = true → t.sv s = true

theorem State.KeepsMarks.trans {a b c : State} (h : a.KeepsMarks b) (k : b.KeepsMarks c) : a.KeepsMarks c :=
  ⟨k.ov ∘ h.ov, fun s => k.sv s ∘ h.sv s⟩

/-- Equal status registers show the same marks. -/
theorem keepsMarks_of_eq {m t : State} (status : t.status = m.status) (schst : t.schst = m.schst) : m.KeepsMarks t where
  ov marked := by rwa [State.ov, status]
  sv s marked := by rwa [State.sv, schst]

/-- Fault entry clears no mark (R226). -/
theorem raise_keepsMarks (cause : FaultCause) (c : Byte) (m : State) : m.KeepsMarks (raise cause c m) where
  ov := (raise_ov cause c m).trans
  sv s := (raise_sv m cause c s).trans

/-- A build of one stage sets its SV bit and leaves the others (R140). -/
theorem storeSchedule_keepsMarks (m : State) (s : Stage) (d : Dir) (ks : KeySchedule) :
    m.KeepsMarks (m.storeSchedule s d ks) where
  ov := (storeSchedule_ov m s d ks).trans
  sv k marked := by rw [storeSchedule_sv, marked, Bool.true_or]

/-- The build of all stages sets every SV bit (R141). -/
theorem buildAll_keepsMarks (t : Tables) (d : Dir) (m : State) : m.KeepsMarks (m.buildAll t d) where
  ov := (buildAll_ov t d m).trans
  sv s _ := buildAll_sv t d m s

/-- The end of a run sets OV (R180, R200). -/
theorem run_keepsMarks (m : State) (n : Nat) (b : Block) : m.KeepsMarks ((m.takeDraws n).storeResult b) where
  ov _ := storeResult_ov _ b
  sv s := ((storeResult_sv _ b s).trans (takeDraws_sv m n s)).trans

/-- A command clears no mark (R140, R141, R180, R200, R201). -/
theorem exec_keepsMarks {i : Instr} {m t : State} (h : exec i m = .next t) : m.KeepsMarks t := by
  obtain ⟨-, -, rfl⟩ | ⟨-, -, rfl⟩ | ⟨s, d, -, rfl⟩ | ⟨d, -, rfl⟩ | ⟨-, n, block, rfl, -⟩ |
    ⟨-, d, n, block, -, rfl⟩ := exec_next h
  · exact raise_keepsMarks _ _ m
  · exact raise_keepsMarks _ _ m
  · exact storeSchedule_keepsMarks m s d _
  · exact buildAll_keepsMarks _ d m
  · exact run_keepsMarks m n block
  · exact (buildAll_keepsMarks _ d m).trans (run_keepsMarks _ n block)

/-- Nor does any transaction but reset. -/
theorem Performed.keepsMarks {op : HostOp} {m t : State} (performed : Performed op m t) (notReset : op ≠ .reset) :
    m.KeepsMarks t := by
  cases performed with
  | kept same => exact keepsMarks_of_eq same.status same.schst
  | km i v wrote running => exact keepsMarks_of_eq rfl rfl
  | ibuf i v wrote running => exact keepsMarks_of_eq rfl rfl
  | blen v wrote running => exact keepsMarks_of_eq rfl rfl
  | command v wrote running executed =>
    obtain ⟨i, -, executed⟩ | ⟨why, -, rfl⟩ := executeCommand_next executed
    · exact exec_keepsMarks executed
    · exact raise_keepsMarks _ v m
  | reset isReset => exact absurd isReset notReset

/-- Nor does any step but reset. -/
theorem step_keepsMarks {m t : State} (h : step m = .next t) (notReset : ¬ m.ResetNext) : m.KeepsMarks t := by
  cases script : m.script with
  | nil =>
    rw [step_idle script] at h
    cases h
    exact keepsMarks_of_eq rfl rfl
  | cons op rest =>
    have notResetOp : op ≠ .reset := fun isReset => notReset (by rw [State.ResetNext, script, isReset, List.head?_cons])
    exact (keepsMarks_of_eq (withScript_status m rest) (withScript_schst m rest)).trans
      ((step_performed script h).keepsMarks notResetOp)

/-- Settles O52: no other step clears a mark, and where FCAUSE is not 0 the engine is Faulted, so that no register changes. -/
theorem onlyResetClears : Obligations.OnlyResetClears := by
  intro m t h notReset
  obtain ⟨ov, sv⟩ := step_keepsMarks h notReset
  refine ⟨ov, sv, fun inv raised => ?_⟩
  obtain ⟨same, -⟩ := faultedUntilReset m t (inv.faulted.mpr raised) notReset h
  exact ⟨same.fcause, same.finfo⟩

/-- Reset leaves every register as right after reset, from any state (R250). -/
theorem resetEngine_sameRegisters (fk : KeyMaterial) (m : State) :
    (State.resetWith fk).SameRegisters (resetEngine fk m) := ⟨rfl, rfl, rfl, rfl, rfl, rfl, rfl, rfl, rfl, rfl⟩

/-- Settles O48: the transaction is a reset, which looks at no register and at FLT neither. -/
theorem resetFromAnyState : Obligations.ResetFromAnyState := fun m rest script =>
  ⟨resetEngine Config.formatKey (m.withScript rest), step_transact script, resetEngine_sameRegisters _ _,
    resetEngine_flt _ _, rfl, rfl, rfl⟩

end Sys2Proof.Machine
